-- ==== Sys2Proof/Word.lean ====
section
/-! DEFINITION. The machine's word types and the names of its address spaces (R11, R12, R60). -/

namespace Sys2Proof

/-- A 32-bit word: the contents of a register (R11, R12). Bit 0 is the least significant bit. -/
abbrev Word := BitVec 32

/-- A byte of a memory. A sample is one byte in two's complement (R12, R156). -/
abbrev Byte := BitVec 8

/-- The four byte memories of R60, each a space of its own. -/
inductive ByteSpace where
  /-- SRC: the input of the FEC encoder (R44). -/
  | src
  /-- COD: the output of the FEC encoder and the input of the escaper (R45). -/
  | cod
  /-- TXB: the output of the escaper and the input of the modulator (R46). -/
  | txb
  /-- ORB: the output ring buffer (R48). -/
  | orb
  deriving DecidableEq, Repr

/-- The five address spaces of R60. -/
inductive Space where
  /-- REG: the 32-bit registers. -/
  | reg
  /-- One of the byte memories. -/
  | mem (b : ByteSpace)
  deriving DecidableEq, Repr

end Sys2Proof
end

