-- ==== Sys2Proof/Config.lean ====
section
/-! DEFINITION. What the hardware fixes (R9), what a configuration chooses (R10), and the free values: the
constants without a body that stand for what the spec leaves to the environment (R18). -/

namespace Sys2Proof.Config

/-! ## Values the source document fixes (R9) -/

/-- `RS_N`, the block length (R9). -/
abbrev rsN : Nat := 255
/-- `RS_K`, the message length (R9). -/
abbrev rsK : Nat := 223
/-- `RS_T2`, the number of parity symbols (R9). -/
abbrev rsT2 : Nat := 32
/-- `RS_FCR`, the first consecutive root (R9). -/
abbrev rsFcr : Nat := 1
/-- `RS_GAP`, the root gap (R9). -/
abbrev rsGap : Nat := 1
/-- `ESC_BYTE`, the escape value (R9, R140). -/
abbrev escByte : Byte := 0x54
/-- `SYNC_BYTE`, the sync value (R9, R140). -/
abbrev syncByte : Byte := 0xAB
/-- `SYNC_SUB`, the substitute of an escaped sync value (R9, R140). -/
abbrev syncSub : Byte := 0x9F
/-- `BAUD`, bits per second (R9). -/
abbrev baud : Nat := 1200
/-- `START_BITS` of a frame (R9). -/
abbrev startBits : Nat := 4
/-- `STOP_BITS` of a frame (R9). -/
abbrev stopBits : Nat := 4
/-- `DATA_BITS` of a frame (R9). -/
abbrev dataBits : Nat := 8
/-- `PUMP_MAX`, the data bytes one pump may consume (R9, 90_conflicts.md C2). -/
abbrev pumpMax : Nat := 128
/-- The identity constant that register ID reads as (R21). -/
abbrev idValue : Word := 0x53475458

/-! ## Free values -/

/-- FREE VALUE (log 5): the sink's answer to the poll with this number, where the environment has fixed no answer
in advance (R204: "the value is the environment's"; U13 any value). -/
opaque sinkAnswer : Nat → Bool

/-- FREE VALUE (log 6): the byte a memory holds at an offset that nothing has written since the power-on with this
number (R47, U12: any value, the same until the byte is written). -/
opaque powerOnByte : Nat → ByteSpace → Nat → Byte

/-- FREE VALUE (log 7, 9): what a reader gets, of the byte that stands there, for an offset at or beyond the memory's valid
length, and for an offset of SRC that has not been written since the last RESET (R47, R75, R223: an unspecified
value). -/
opaque staleByte : ByteSpace → Nat → Byte → Byte

end Sys2Proof.Config

namespace Sys2Proof

/-- The configuration record of R10: the values the document does not give. It is fixed before reset and never
changes (R50). What a record must satisfy to be a configuration of this hardware is `Machine.ValidParams`. -/
structure Params where
  /-- `RS_PRIM`: bit i is the coefficient of x^i (log 17). -/
  rsPrim : BitVec 9
  /-- `SRC_MAX`, bytes. -/
  srcMax : Nat
  /-- `COD_MAX`, bytes. -/
  codMax : Nat
  /-- `TXB_MAX`, bytes. -/
  txbMax : Nat
  /-- `SAMPLE_RATE`, a whole number of samples per second (DESIGN CHOICE: the spec gives only its lower bound; log 3). -/
  sampleRate : Nat
  /-- `NS_BIT`, samples per bit. -/
  nsBit : Nat
  /-- `MARK_HZ`, whole hertz (log 3). -/
  markHz : Nat
  /-- `SPACE_HZ`, whole hertz (log 3). -/
  spaceHz : Nat
  /-- `FTW_MARK`. -/
  ftwMark : Word
  /-- `FTW_SPACE`. -/
  ftwSpace : Word
  /-- `SIN_LEN`. -/
  sinLen : Nat
  /-- `SIN_AMP`. -/
  sinAmp : Nat
  /-- `SINE[0..SIN_LEN)`, each sample as its two's-complement byte. -/
  sine : List Byte
  /-- `LEADER_BITS`, bit times. -/
  leaderBits : Nat
  /-- `TRAILER_BITS`, bit times. -/
  trailerBits : Nat
  /-- `FLUSH_NS`, samples. -/
  flushNs : Nat
  /-- `ORB_MIN`, bytes. -/
  orbMin : Nat
  /-- `ORB_MAX`, bytes. -/
  orbMax : Nat
  /-- `DATA_MSB_RESET`: 1 is `true`. -/
  dataMsbReset : Bool
  deriving DecidableEq, Repr

/-- The first half period of the default sine ROM: the rows 0 to 112 of the table of R158. -/
def defaultHalfWave : List Int :=
  [0, 3, 6, 9, 12, 16, 19, 22, 25, 28, 31, 34, 37, 40, 43, 46] ++
  [49, 51, 54, 57, 60, 63, 65, 68, 71, 73, 76, 78, 81, 83, 85, 88] ++
  [90, 92, 94, 96, 98, 100, 102, 104, 106, 107, 109, 111, 112, 113, 115, 116] ++
  [117, 118, 120, 121, 122, 122, 123, 124, 125, 125, 126, 126, 126, 127, 127, 127] ++
  [127, 127, 127, 127, 126, 126, 126, 125, 125, 124, 123, 122, 122, 121, 120, 118] ++
  [117, 116, 115, 113, 112, 111, 109, 107, 106, 104, 102, 100, 98, 96, 94, 92] ++
  [90, 88, 85, 83, 81, 78, 76, 73, 71, 68, 65, 63, 60, 57, 54, 51] ++
  [49, 46, 43, 40, 37, 34, 31, 28, 25, 22, 19, 16, 12, 9, 6, 3]

/-- The default sine ROM (R158). The table's rows 128 to 240 are its rows 0 to 112 negated: SINE[i + 128] = −SINE[i]. -/
def defaultSine : List Byte :=
  (defaultHalfWave ++ defaultHalfWave.map (fun x => -x)).map (BitVec.ofInt 8)

/-- The default configuration of R10, the one the spec's test vectors use. -/
def Params.default : Params where
  rsPrim := 0x187
  srcMax := 57088
  codMax := 65280
  txbMax := 130560
  sampleRate := 48000
  nsBit := 40
  markHz := 1200
  spaceHz := 2200
  ftwMark := 0x06666666
  ftwSpace := 0x0BBBBBBC
  sinLen := 256
  sinAmp := 127
  sine := defaultSine
  leaderBits := 2
  trailerBits := 2
  flushNs := 480
  orbMin := 1024
  orbMax := 4096
  dataMsbReset := false

end Sys2Proof
end

