-- ==== Sys2Proof/Syntax.lean ====
section
/-! DEFINITION. The syntax of the ten commands (R94). -/

namespace Sys2Proof

/-- A command of R94, one constructor per row of the opcode table. Commands name their operands implicitly
(R92); only TONE has one of its own. -/
inductive Instr where
  /-- FEC_SIZE, opcode 0x01 (R121). -/
  | fecSize
  /-- FEC_ENCODE, opcode 0x02 (R122). -/
  | fecEncode
  /-- ESC_COUNT, opcode 0x03 (R144). -/
  | escCount
  /-- ESC_ESCAPE, opcode 0x04 (R145). -/
  | escEscape
  /-- TX_START, opcode 0x10 (R176). -/
  | txStart
  /-- TX_PUMP, opcode 0x11 (R177). -/
  | txPump
  /-- TX_CANCEL, opcode 0x12 (R182). -/
  | txCancel
  /-- TONE, opcode 0x13, with `nsamples`, the value of imm24 (R93, R184). -/
  | tone (nsamples : Nat)
  /-- ORB_FLUSH, opcode 0x20 (R207). -/
  | orbFlush
  /-- RESET, opcode 0x7F (R223). -/
  | reset
  deriving DecidableEq, Repr

end Sys2Proof
end

