-- ==== Sys2Proof/WellFormed.lean ====
section
/-! DEFINITION. Which terms of `Instr` are commands of the hardware: the range check of TONE's count (R93). -/

namespace Sys2Proof

/-- `nsamples` is a 24-bit unsigned immediate, 0 to 16777215 (R93). No other command has an operand to check. -/
def Instr.wellFormed : Instr → Bool
  | .fecSize => true
  | .fecEncode => true
  | .escCount => true
  | .escEscape => true
  | .txStart => true
  | .txPump => true
  | .txCancel => true
  | .tone nsamples => decide (nsamples < 2 ^ 24)
  | .orbFlush => true
  | .reset => true

end Sys2Proof
end

