-- ==== Sys2Proof/Decode.lean ====
section
/-! DEFINITION. Decoding of the command word (R92 to R98) and of the packed port request (R90), each followed by its
encoder; the packed port response (R91). -/

namespace Sys2Proof

/-- Why a command word is illegal (R97). -/
inductive DecodeError where
  /-- An opcode that no row of R94 has (R96). -/
  | reservedOpcode (op : Byte)
  /-- A valid opcode other than TONE with imm24 ≠ 0 (R93, R97). -/
  | nonZeroImmediate (op : Byte) (imm : BitVec 24)
  deriving DecidableEq, Repr

/-- The opcode field, bits 7:0 (R92). -/
def opcodeOf (w : Word) : Byte := w.extractLsb' 0 8

/-- The immediate field imm24, bits 31:8 (R92). -/
def immOf (w : Word) : BitVec 24 := w.extractLsb' 8 24

/-- The command of a row of R94 that takes no immediate, given its opcode. -/
def plainCommand (op : Byte) : Option Instr :=
  if op = 0x01 then some .fecSize
  else if op = 0x02 then some .fecEncode
  else if op = 0x03 then some .escCount
  else if op = 0x04 then some .escEscape
  else if op = 0x10 then some .txStart
  else if op = 0x11 then some .txPump
  else if op = 0x12 then some .txCancel
  else if op = 0x20 then some .orbFlush
  else if op = 0x7F then some .reset
  else none

/-- The command a word encodes, or why it is illegal (R95). The refusal while FAULT = 1 is no matter of decoding: it is the
common check of R220. -/
def decode (w : Word) : Except DecodeError Instr :=
  if opcodeOf w = 0x13 then .ok (.tone (immOf w).toNat)
  else
    match plainCommand (opcodeOf w) with
    | some i => if immOf w = 0 then .ok i else .error (.nonZeroImmediate (opcodeOf w) (immOf w))
    | none => .error (.reservedOpcode (opcodeOf w))

/-- The opcode of a command (R94). -/
def Instr.opcode : Instr → Byte
  | .fecSize => 0x01
  | .fecEncode => 0x02
  | .escCount => 0x03
  | .escEscape => 0x04
  | .txStart => 0x10
  | .txPump => 0x11
  | .txCancel => 0x12
  | .tone _ => 0x13
  | .orbFlush => 0x20
  | .reset => 0x7F

/-- The immediate of a command: the count of TONE, else 0 (R93). -/
def Instr.immediate : Instr → BitVec 24
  | .tone nsamples => BitVec.ofNat 24 nsamples
  | .fecSize | .fecEncode | .escCount | .escEscape | .txStart | .txPump | .txCancel | .orbFlush | .reset => 0

/-- The command word of a command (R92). -/
def encode (i : Instr) : Word := i.immediate ++ i.opcode

/-- A row of the opcode map: the word `w` selects it when `w &&& mask = pattern` (R94). -/
structure OpcodeRow where
  mask : Word
  pattern : Word
  deriving DecidableEq, Repr

/-- The opcode map of R94, in the table's order: FEC_SIZE, FEC_ENCODE, ESC_COUNT, ESC_ESCAPE, TX_START, TX_PUMP,
TX_CANCEL, TONE, ORB_FLUSH, RESET. -/
def opcodeTable : List OpcodeRow :=
  [⟨0xFFFFFFFF, 0x00000001⟩, ⟨0xFFFFFFFF, 0x00000002⟩, ⟨0xFFFFFFFF, 0x00000003⟩, ⟨0xFFFFFFFF, 0x00000004⟩,
   ⟨0xFFFFFFFF, 0x00000010⟩, ⟨0xFFFFFFFF, 0x00000011⟩, ⟨0xFFFFFFFF, 0x00000012⟩, ⟨0x000000FF, 0x00000013⟩,
   ⟨0xFFFFFFFF, 0x00000020⟩, ⟨0xFFFFFFFF, 0x0000007F⟩]

/-- The host's question: the command of a table row's word, `nbits` bits of it given and the bits above them 0. A command
has no bytes in a memory: it is the one 32-bit word written to CMD (R92). -/
def decodeTableWord (nbits w : Nat) : Option Instr :=
  match decode (BitVec.ofNat 32 (w % 2 ^ nbits)) with
  | .ok i => some i
  | .error _ => none

/-! ## Port requests and responses -/

/-- A port request (R61). -/
structure Request where
  /-- 1 = write, 0 = read. -/
  we : Bool
  /-- The space code of R60. -/
  space : BitVec 3
  /-- The byte offset within the space. -/
  offset : BitVec 24
  /-- The data to write; ignored on a read. -/
  wdata : Word
  deriving DecidableEq, Repr

/-- The request a packed 64-bit word stands for (R90), or `none` where a bit of 59:56 is set. -/
def unpackRequest (r : BitVec 64) : Option Request :=
  if r.extractLsb' 56 4 = 0 then
    some { we := r.getLsbD 63, space := r.extractLsb' 60 3, offset := r.extractLsb' 32 24, wdata := r.extractLsb' 0 32 }
  else none

/-- The packed 64-bit word of a request (R90). -/
def packRequest (q : Request) : BitVec 64 :=
  BitVec.ofBool q.we ++ q.space ++ (0 : BitVec 4) ++ q.offset ++ q.wdata

/-- The space a space code selects; codes 5, 6 and 7 select none (R60). -/
def spaceOfCode (c : BitVec 3) : Option Space :=
  if c = 0 then some .reg
  else if c = 1 then some (.mem .src)
  else if c = 2 then some (.mem .cod)
  else if c = 3 then some (.mem .txb)
  else if c = 4 then some (.mem .orb)
  else none

/-- The space code of a space (R60). -/
def codeOfSpace : Space → BitVec 3
  | .reg => 0
  | .mem .src => 1
  | .mem .cod => 2
  | .mem .txb => 3
  | .mem .orb => 4

/-- The offset of register CMD (R22). -/
abbrev cmdOffset : BitVec 24 := 0x04

/-- The request that writes the word `w` to CMD. -/
def cmdRequest (w : Word) : Request := { we := true, space := 0, offset := cmdOffset, wdata := w }

/-- A port response (R61): `OK(rdata)`, with `rdata` 0 on a write, or `ERR`. -/
inductive Response where
  /-- The request was served; a read's data. -/
  | ok (rdata : Word)
  /-- The request was refused and changed nothing. -/
  | err
  deriving DecidableEq, Repr

/-- The packed 33-bit response: bit 32 `err`, bits 31:0 `rdata` (R91). -/
def packResponse : Response → BitVec 33
  | .ok rdata => (0 : BitVec 1) ++ rdata
  | .err => (1 : BitVec 1) ++ (0 : Word)

end Sys2Proof
end

