-- ==== Sys2Proof/Machine/State.lean ====
section
/-! DEFINITION. The state of the block and of the environment it talks to (file 10_state.md), the reasons a step can stop, and
the state after power-on reset (R51). -/

namespace Sys2Proof.Machine

/-- Why a step stops. Both are stops of the sequencer's loop that the spec calls unreachable or excludes (R172); no state
that the invariant `Inv` holds of meets one, so a run from reset never stops. Safe: the model stops where the
spec gives no effect (log 11). -/
inductive Fault where
  /-- Raised by TX_PUMP and TX_CANCEL where TRANSMITTING = 1 and MSTATE = M_IDLE: the arm R172 marks unreachable. Safe. -/
  | sequencerIdle
  /-- Raised by TX_PUMP and TX_CANCEL where the loop has made more passes than R172 allows it; never
  (the passes are counted generously). Safe. -/
  | sequencerOverrun
  deriving DecidableEq, Repr

/-- Why an instruction has no meaning. Every command has its meaning, so nothing raises it. Safe. -/
inductive Refusal where
  /-- For an arm of `exec` that rejects its instruction by name; no arm does. Safe. -/
  | notModelled (mnemonic : String)
  deriving DecidableEq, Repr

/-- STATUS.CODE (R24). -/
inductive Code where
  /-- ST_OK (0). -/
  | ok
  /-- ST_IN_PROGRESS (1). -/
  | inProgress
  /-- ST_COMPLETE (2). -/
  | complete
  /-- ST_BUSY (3). -/
  | busy
  /-- ST_ERROR (4). -/
  | error
  /-- ST_CANCELLED (5). -/
  | cancelled
  deriving DecidableEq, Repr

/-- STATUS.CAUSE and STATUS.FCAUSE (R231). -/
inductive Cause where
  /-- 0: no error. -/
  | none
  /-- EC_VALIDATION (1). -/
  | validation
  /-- EC_RESOURCE (2): never raised (R236). -/
  | resource
  /-- EC_ALGORITHMIC (3): never raised (R120). -/
  | algorithmic
  /-- EC_NO_SESSION (4). -/
  | noSession
  /-- EC_UNESCAPED_SYNC (5). -/
  | unescapedSync
  /-- EC_ORB_OVERFLOW (6). -/
  | orbOverflow
  /-- EC_BAD_STATE (7). -/
  | badState
  /-- EC_ILLEGAL_CMD (8). -/
  | illegalCmd
  /-- EC_FAULTED (9). -/
  | faulted
  deriving DecidableEq, Repr

/-- STATUS.MSTATE: the state of the modulator's sequencer (R26). -/
inductive MState where
  /-- M_IDLE (0). -/
  | idle
  /-- M_LEADER (1). -/
  | leader
  /-- M_SYNC0 (2): the first sync frame is pending. -/
  | sync0
  /-- M_SYNC1 (3): the second sync frame is pending. -/
  | sync1
  /-- M_DATA (4). -/
  | data
  /-- M_TRAILER (5). -/
  | trailer
  /-- M_FLUSHTONE (6). -/
  | flushTone
  /-- M_DRAIN (7). -/
  | drain
  /-- M_FINISH (8). -/
  | finish
  deriving DecidableEq, Repr

/-- The fields of register STATUS (R23). Its reserved bits read 0 and the reserved values of its fields are never
written, so the fields are all there is to hold; `statusWord` puts the register's word together (log 10). -/
structure Status where
  code : Code
  cause : Cause
  transmitting : Bool
  fault : Bool
  cancelling : Bool
  mstate : MState
  fcause : Cause
  deriving DecidableEq, Repr

/-- A byte memory: the bytes written since power-on as (offset, byte) pairs, offsets strictly rising. An offset that is
not listed holds its unspecified power-on byte (R47, log 6). -/
abbrev Memory := List Host.Cell

/-- The canonical form: offsets strictly rising. An unlisted offset reads as no written byte, and a listed one always
has a written byte, so no entry repeats what an unlisted offset reads as: equal memories are equal lists. -/
abbrev Memory.wf (m : Memory) : Prop := m.Pairwise (fun a b => a.1 < b.1)

/-- An event the host sends the block (R6, R8, R260). -/
inductive Input where
  /-- A port request in the packed form of R90. -/
  | request (r : BitVec 64)
  /-- The reset input `rst` is asserted (R260). -/
  | rst
  deriving DecidableEq, Repr

/-- The state: the registers and memories of the block (R20), the environment's state that the rules mention (R49), and the
model's own fields. -/
structure State where
  /-- MODEL: the configuration record (R10); no step changes it (log 1). -/
  params : Params
  /-- CMD (R22). -/
  cmd : Word
  /-- STATUS (R23). -/
  status : Status
  /-- ERRINFO (R27). -/
  errinfo : Word
  /-- ARG0 (R28). -/
  arg0 : Word
  /-- RES0 (R29). -/
  res0 : Word
  /-- CFG (R30). -/
  cfg : Word
  /-- SRC_LEN (R31). -/
  srcLen : Word
  /-- COD_LEN (R32). -/
  codLen : Word
  /-- TXB_LEN (R33). -/
  txbLen : Word
  /-- SES_LEN (R34). -/
  sesLen : Word
  /-- CURSOR (R35). -/
  cursor : Word
  /-- ORB_SIZE (R36). -/
  orbSize : Word
  /-- PHASE (R37). -/
  phase : Word
  /-- PAR[0..31] (R41). -/
  par : Vector Byte 32
  /-- SRC (R44). -/
  src : Memory
  /-- MODEL: the offsets of SRC whose byte was written before the last RESET and not since, strictly rising: the byte is kept,
and unspecified to whoever reads it (R47, R223, log 9). -/
  srcStale : List Nat
  /-- COD (R45). -/
  cod : Memory
  /-- TXB (R46). -/
  txb : Memory
  /-- ORB (R48). -/
  orb : Memory
  /-- ENVIRONMENT: the sink's answers to the next polls, as far as they are fixed; after them every poll is a
  free draw (R49, R204, log 5). -/
  sinkAnswers : List Bool
  /-- ENVIRONMENT: `SINK_LOG`, the hand-offs so far, oldest first (R49, R205). -/
  sinkLog : List (List Byte)
  /-- MODEL: the number of polls made so far, the index of the next free draw (log 21). -/
  polls : Nat
  /-- MODEL: the host's events still to be served, the next one first (log 4). -/
  inputs : List Input
  /-- MODEL: the port responses given so far, oldest first (R17). -/
  responses : List Response
  /-- MODEL: the number of `rst` events so far, the index of the power-on contents (log 21). -/
  powerOns : Nat
  deriving DecidableEq, Repr

/-- STATUS after power-on reset: every field 0 (R51). -/
def Status.reset : Status where
  code := .ok
  cause := .none
  transmitting := false
  fault := false
  cancelling := false
  mstate := .idle
  fcause := .none

/-- The state after power-on reset with the default configuration (R51, R260): every register 0, no session, no fault,
memories unwritten. PAR is 0 by choice (log 8); the environment's and the model's own fields are empty (log 21, 22). -/
def State.reset : State where
  params := Params.default
  cmd := 0
  status := Status.reset
  errinfo := 0
  arg0 := 0
  res0 := 0
  cfg := 0
  srcLen := 0
  codLen := 0
  txbLen := 0
  sesLen := 0
  cursor := 0
  orbSize := 0
  phase := 0
  par := Vector.replicate 32 0
  src := []
  srcStale := []
  cod := []
  txb := []
  orb := []
  sinkAnswers := []
  sinkLog := []
  polls := 0
  inputs := []
  responses := []
  powerOns := 0

end Sys2Proof.Machine
end

