-- ==== Sys2Proof/Machine/Flags.lean ====
section
/-! DEFINITION. The status register's fields and flags as bits (R23, R24, R26, R231), and the fields of CFG (R30). The block has no
arithmetic condition codes (R40). -/

namespace Sys2Proof.Machine

/-- The value of STATUS.CODE (R24). -/
def codeBits : Code → BitVec 4
  | .ok => 0
  | .inProgress => 1
  | .complete => 2
  | .busy => 3
  | .error => 4
  | .cancelled => 5

/-- The value of STATUS.CAUSE and STATUS.FCAUSE (R231). -/
def causeBits : Cause → BitVec 4
  | .none => 0
  | .validation => 1
  | .resource => 2
  | .algorithmic => 3
  | .noSession => 4
  | .unescapedSync => 5
  | .orbOverflow => 6
  | .badState => 7
  | .illegalCmd => 8
  | .faulted => 9

/-- The value of STATUS.MSTATE (R26). -/
def mstateBits : MState → BitVec 4
  | .idle => 0
  | .leader => 1
  | .sync0 => 2
  | .sync1 => 3
  | .data => 4
  | .trailer => 5
  | .flushTone => 6
  | .drain => 7
  | .finish => 8

/-- Whether a cause is fatal: whether it is reported by `Fault` (R231). -/
def fatalCause : Cause → Bool
  | .none | .validation | .resource | .faulted => false
  | .algorithmic | .noSession | .unescapedSync | .orbOverflow | .badState | .illegalCmd => true

/-- The word STATUS reads as (R23): bits 31:20 reserved, FCAUSE 19:16, MSTATE 15:12, bit 11 reserved, CANCELLING 10, FAULT 9,
TRANSMITTING 8, CAUSE 7:4, CODE 3:0. -/
def statusWord (st : Status) : Word :=
  (0 : BitVec 12) ++ causeBits st.fcause ++ mstateBits st.mstate ++ (0 : BitVec 1) ++ BitVec.ofBool st.cancelling ++
    BitVec.ofBool st.fault ++ BitVec.ofBool st.transmitting ++ causeBits st.cause ++ codeBits st.code

/-- CFG.MSB_FIRST: bit 0 (R30). -/
def msbFirst (cfg : Word) : Bool := cfg.getLsbD 0

/-- CFG.INVERT_SS: bit 1 (R30). -/
def invertSs (cfg : Word) : Bool := cfg.getLsbD 1

/-- Whether a word sets none of CFG's reserved bits 31:2 (R30, R66). -/
def cfgLegal (v : Word) : Bool := decide (v.extractLsb' 2 30 = 0)

/-- CFG's reset value: MSB_FIRST = DATA_MSB_RESET, INVERT_SS = 0 (R30, R51). -/
def cfgReset (p : Params) : Word := if p.dataMsbReset then 1 else 0

end Sys2Proof.Machine
end

