-- ==== Sys2Proof/Machine/Ops.lean ====
section
/-! DEFINITION. The named operations over memories and registers, the end of a command (R221), taking an error (R233), the way
back from one (R223), and the sink port (R204, R205). -/

namespace Sys2Proof.Machine

/-! ## Memories -/

/-- The byte written at an offset, or `none` where nothing has been written since power-on (R47). -/
def memAt (m : Memory) (a : Nat) : Option Byte :=
  match m.dropWhile (fun c => decide (c.1 < a)) with
  | [] => none
  | c :: _ => if c.1 = a then some c.2 else none

/-- The run of `n` bytes from `base`, `held` giving the byte at an offset from the byte written there, if there is one:
`M[base .. base + n)` of R13. -/
def memRun (held : Nat → Option Byte → Byte) : Memory → Nat → Nat → List Byte
  | _, _, 0 => []
  | m, base, n + 1 =>
    let rest := m.dropWhile (fun c => decide (c.1 < base))
    held base (memAt rest base) :: memRun held rest (base + 1) n

/-- The cells of a run of bytes that starts at `base`. -/
def cellsFrom : Nat → List Byte → Memory
  | _, [] => []
  | base, b :: bs => (base, b) :: cellsFrom (base + 1) bs

/-- The memory with the run of bytes `bs` written at `base`: `M[base .. base + len) <- bs`. -/
def memWrite (m : Memory) (base : Nat) (bs : List Byte) : Memory :=
  m.filter (fun c => decide (c.1 < base)) ++ cellsFrom base bs ++
    m.filter (fun c => decide (base + bs.length ≤ c.1))

/-- The memory of a space. -/
def memOf (b : ByteSpace) (s : State) : Memory :=
  match b with
  | .src => s.src
  | .cod => s.cod
  | .txb => s.txb
  | .orb => s.orb

/-- The state with the memory of a space replaced. -/
def setMem (b : ByteSpace) (m : Memory) (s : State) : State :=
  match b with
  | .src => { s with src := m }
  | .cod => { s with cod := m }
  | .txb => { s with txb := m }
  | .orb => { s with orb := m }

/-- Whether the byte at an offset was written before the last RESET and not since. Only SRC keeps such bytes where a reader
can meet them: the other memories have a length, which RESET clears (R47, R223, log 9). -/
def isStale (b : ByteSpace) (a : Nat) (s : State) : Bool :=
  match b with
  | .src => decide (a ∈ s.srcStale)
  | .cod | .txb | .orb => false

/-- The byte a reader finds at an offset, given the byte written there, if there is one: that byte; an unspecified value
where it dates from before the last RESET; the power-on byte where nothing has been written (R47, R75, R223). -/
def heldByte (b : ByteSpace) (s : State) (a : Nat) (written : Option Byte) : Byte :=
  match written with
  | none => Config.powerOnByte s.powerOns b a
  | some x => if isStale b a s then Config.staleByte b a x else x

/-- The byte a memory holds at an offset (R47). -/
def byteAt (b : ByteSpace) (a : Nat) (s : State) : Byte := heldByte b s a (memAt (memOf b s) a)

/-- The bytes of a memory from `base`, `n` of them. -/
def bytesAt (b : ByteSpace) (base n : Nat) (s : State) : List Byte := memRun (heldByte b s) (memOf b s) base n

/-- The bytes of SRC in the run of `n` from `base` are no longer from before the last RESET (R47: "until the byte is written"). -/
def markWritten (b : ByteSpace) (base n : Nat) (s : State) : State :=
  match b with
  | .src => { s with srcStale := s.srcStale.filter (fun a => decide (a < base ∨ base + n ≤ a)) }
  | .cod | .txb | .orb => s

/-- The state with a run of bytes written to a memory. -/
def storeBytes (b : ByteSpace) (base : Nat) (bs : List Byte) (s : State) : State :=
  markWritten b base bs.length (setMem b (memWrite (memOf b s) base bs) s)

/-- The size of a byte space (R60). -/
def spaceSize (b : ByteSpace) (p : Params) : Nat :=
  match b with
  | .src => p.srcMax
  | .cod => p.codMax
  | .txb => p.txbMax
  | .orb => p.orbMax

/-- How many bytes of a memory are within its valid length for a read by the host: COD_LEN, TXB_LEN, ORB_SIZE (R75). SRC has no
such length: its bytes are unspecified where unwritten since power-on or since the last RESET (R75, R223, log 9). -/
def validLength (b : ByteSpace) (s : State) : Nat :=
  match b with
  | .src => s.params.srcMax
  | .cod => s.codLen.toNat
  | .txb => s.txbLen.toNat
  | .orb => s.orbSize.toNat

/-- The byte the port answers for an offset inside the space (R64): the memory's byte, or, beyond the valid length,
an unspecified value (R47, R75, log 7). -/
def hostByte (b : ByteSpace) (a : Nat) (s : State) : Byte :=
  if a < validLength b s then byteAt b a s else Config.staleByte b a (byteAt b a s)

/-! ## Registers -/

/-- The register at a REG offset (section 2 of 10_state.md); `none` where no register stands: an offset that is not a
multiple of 4, or 0x38 and above (R63, R65, R68). ID is hard-wired (R21). -/
def readReg (off : BitVec 24) (s : State) : Option Word :=
  if off = 0x00 then some Config.idValue
  else if off = 0x04 then some s.cmd
  else if off = 0x08 then some (statusWord s.status)
  else if off = 0x0C then some s.errinfo
  else if off = 0x10 then some s.arg0
  else if off = 0x14 then some s.res0
  else if off = 0x18 then some s.cfg
  else if off = 0x1C then some s.srcLen
  else if off = 0x20 then some s.codLen
  else if off = 0x24 then some s.txbLen
  else if off = 0x28 then some s.sesLen
  else if off = 0x2C then some s.cursor
  else if off = 0x30 then some s.orbSize
  else if off = 0x34 then some s.phase
  else none

/-- A host write to a register other than CMD: the state after it, or `none` where it is refused. ARG0 takes any value at
any time (R28); CFG and SRC_LEN check their value (R66) and are protected during a session (R67); every other
register is read-only (R66). -/
def writeReg (off : BitVec 24) (v : Word) (s : State) : Option State :=
  if off = 0x10 then some { s with arg0 := v }
  else if off = 0x18 then
    if s.status.transmitting = false ∧ cfgLegal v = true then some { s with cfg := v } else none
  else if off = 0x1C then
    if s.status.transmitting = false ∧ v.toNat ≤ s.params.srcMax then some { s with srcLen := v } else none
  else none

/-! ## The end of a command, errors, and the way back -/

/-- `Finish(code, cause, info)` (R221). -/
def finish (code : Code) (cause : Cause) (info : Word) (s : State) : State :=
  { s with
    status := { s.status with code := code, cause := if code = .error then cause else .none }
    errinfo := if code = .error then info else 0 }

/-- `Finish(code, 0, 0)` for a code that is not ST_ERROR (R221). -/
def finishWith (code : Code) (s : State) : State := finish code .none 0 s

/-- `Finish(ST_ERROR, cause, 0)`: a non-fatal command error (R230 (b)). -/
def finishError (cause : Cause) (s : State) : State := finish .error cause 0 s

/-- `Fault(cause, info)`: taking a fatal error (R233). -/
def raiseFault (cause : Cause) (info : Word) (s : State) : State :=
  finish .error cause info
    { s with status := { s.status with fault := true, fcause := if s.status.fault then s.status.fcause else cause } }

/-- `DoReset()`: the return from a fault (R223, R241). CMD keeps its word; the memories, PAR, the environment and the
configuration are kept. From now on every byte of SRC is unspecified to whoever reads it, until it is written (log 9). -/
def doReset (s : State) : State :=
  { s with
    status := Status.reset
    errinfo := 0
    arg0 := 0
    res0 := 0
    cfg := cfgReset s.params
    srcLen := 0
    codLen := 0
    txbLen := 0
    sesLen := 0
    cursor := 0
    orbSize := 0
    phase := 0
    srcStale := s.src.map (fun c => c.1) }

/-- Power-on reset by the input `rst` (R51, R260): the registers as after `DoReset` and CMD 0; the memories hold their
unspecified bytes of a new power-on (R47); the environment, the host's events and the configuration are untouched. PAR is
set to 0 by choice (log 8). -/
def powerOnReset (s : State) : State :=
  { doReset s with
    cmd := 0
    par := Vector.replicate 32 0
    src := []
    srcStale := []
    cod := []
    txb := []
    orb := []
    powerOns := s.powerOns + 1 }

/-- The common check every command but RESET makes first (R220, R234): while FAULT = 1 it ends with EC_FAULTED. -/
def unlessFaulted (s : State) (body : State → Host.Outcome State Fault Refusal) : Host.Outcome State Fault Refusal :=
  if s.status.fault then .next (finishError .faulted s) else body s

/-! ## The sink port -/

/-- `SinkPoll()` (R204): the sink's answer to this poll, and the state after it was asked. -/
def sinkPoll (s : State) : Bool × State :=
  match s.sinkAnswers with
  | answer :: later => (answer, { s with sinkAnswers := later, polls := s.polls + 1 })
  | [] => (Config.sinkAnswer s.polls, { s with polls := s.polls + 1 })

/-- `SinkHandoff(B)` (R205): one block of bytes goes to the sink. -/
def sinkHandoff (block : List Byte) (s : State) : State :=
  { s with sinkLog := s.sinkLog ++ [block] }

end Sys2Proof.Machine
end

