-- ==== Sys2Proof/Machine/Galois.lean ====
section
/-! DEFINITION. The field GF(256) and the generator polynomial (R110 to R114), for any field polynomial `prim` of degree 8. -/

namespace Sys2Proof.Machine

/-- One doubling of a field element: `x << 1` in 9 bits, reduced by the field polynomial where bit 8 comes out set (R111). -/
def gfDouble (prim : BitVec 9) (x : Byte) : Byte :=
  (if x.getLsbD 7 then (x.zeroExtend 9 <<< 1) ^^^ prim else x.zeroExtend 9 <<< 1).extractLsb' 0 8

/-- The loop of `GfMul`: `n` further bits of `b` from bit `i` on, `p` the product so far and `x` the doubled multiplicand. -/
def gfMulLoop (prim : BitVec 9) (b : Byte) : Nat → Nat → Byte → Byte → Byte
  | 0, _, p, _ => p
  | n + 1, i, p, x => gfMulLoop prim b n (i + 1) (if b.getLsbD i then p ^^^ x else p) (gfDouble prim x)

/-- `GfMul(a, b)` (R111). -/
def gfMul (prim : BitVec 9) (a b : Byte) : Byte := gfMulLoop prim b 8 0 0 a

/-- The primitive element α (R112). -/
abbrev alpha : Byte := 0x02

/-- The power α^k (R112). -/
def alphaPow (prim : BitVec 9) : Nat → Byte
  | 0 => 1
  | k + 1 => gfMul prim (alphaPow prim k) alpha

/-- The product of a polynomial with (x ⊕ r), coefficients in rising order of power. -/
def timesRoot (prim : BitVec 9) (g : List Byte) (r : Byte) : List Byte :=
  List.zipWith (fun a b => a ^^^ b) (0 :: g) (g.map (fun c => gfMul prim c r) ++ [0])

/-- The roots of the generator polynomial: α^((RS_FCR + i) × RS_GAP), i from 0 to 31 (R113). -/
def generatorRoots (prim : BitVec 9) : List Byte :=
  (List.range Config.rsT2).map (fun i => alphaPow prim ((Config.rsFcr + i) * Config.rsGap))

/-- GEN[0..32]: the coefficients of the generator polynomial, GEN[i] the coefficient of x^i (R42, R113). With the
default field polynomial they are the table of R114. -/
def generator (prim : BitVec 9) : List Byte :=
  (generatorRoots prim).foldl (timesRoot prim) [1]

/-- The value at `r` of the polynomial whose coefficients `cs` stand highest power first, as a codeword's bytes do (R115). -/
def evalHighFirst (prim : BitVec 9) (cs : List Byte) (r : Byte) : Byte :=
  cs.foldl (fun acc c => gfMul prim acc r ^^^ c) 0

/-- Whether the field polynomial is primitive of degree 8, α being the polynomial z: bit 8 is set and α has
order 255 (R10, R112). -/
def primitiveField (prim : BitVec 9) : Bool :=
  prim.getLsbD 8 && decide (alphaPow prim 255 = 1) &&
    (List.range 254).all (fun k => decide (alphaPow prim (k + 1) ≠ 1))

end Sys2Proof.Machine
end

