-- ==== Sys2Proof/Machine/Parameters.lean ====
section
/-! DEFINITION. Quantities computed from the parameters, and what makes a record a configuration of this hardware (R10). -/

namespace Sys2Proof.Machine

/-- `FecSize(d)` = ceil(d / 223) × 255, in unbounded integers (R118). -/
def fecSize (d : Nat) : Nat := (d + (Config.rsK - 1)) / Config.rsK * Config.rsN

/-- `FRAME_NS`: the samples of one frame (R10). -/
def frameNs (p : Params) : Nat := (Config.startBits + Config.dataBits + Config.stopBits) * p.nsBit

/-- The samples of the leader (R167). -/
def leaderNs (p : Params) : Nat := p.leaderBits * p.nsBit

/-- The samples of the trailer (R169). -/
def trailerNs (p : Params) : Nat := p.trailerBits * p.nsBit

/-- `MAXWRITE`: the longest unit a session writes (R10). -/
def maxWrite (p : Params) : Nat := max (max (frameNs p) (leaderNs p)) (max (trailerNs p) p.flushNs)

/-- `Ftw(f)` = floor(f × 2^32 / SAMPLE_RATE + 1/2), of a whole number of hertz at a whole
number of samples per second (R157; that both are whole is a DESIGN CHOICE, log 3). -/
def ftw (p : Params) (f : Nat) : Nat := (2 * f * 2 ^ 32 + p.sampleRate) / (2 * p.sampleRate)

/-- The constraints of R10: a record that breaks one is not a configuration of this hardware. That
SAMPLE_RATE, MARK_HZ and SPACE_HZ are whole numbers is a DESIGN CHOICE (log 3). -/
structure ValidParams (p : Params) : Prop where
  primitive : primitiveField p.rsPrim = true
  srcMax_pos : 1 ≤ p.srcMax
  srcMax_lt : p.srcMax < 2 ^ 24
  codMax_eq : p.codMax = fecSize p.srcMax
  txbMax_eq : p.txbMax = 2 * p.codMax
  txbMax_lt : p.txbMax < 2 ^ 24
  sampleRate_gt : 2 * max p.markHz p.spaceHz < p.sampleRate
  nsBit_eq : p.nsBit = (2 * p.sampleRate + Config.baud) / (2 * Config.baud)
  nsBit_pos : 1 ≤ p.nsBit
  markHz_pos : 0 < p.markHz
  spaceHz_pos : 0 < p.spaceHz
  hz_ne : p.spaceHz ≠ p.markHz
  ftwMark_eq : p.ftwMark.toNat = ftw p p.markHz
  ftwSpace_eq : p.ftwSpace.toNat = ftw p p.spaceHz
  sinLen_pow : 2 ^ Nat.log2 p.sinLen = p.sinLen
  sinLen_ge : 2 ≤ p.sinLen
  sinLen_le : p.sinLen ≤ 2 ^ 16
  sinAmp_pos : 1 ≤ p.sinAmp
  sinAmp_le : p.sinAmp ≤ 127
  sine_length : p.sine.length = p.sinLen
  sine_zero : p.sine.getD 0 0 = 0
  orbMin_pos : 1 ≤ p.orbMin
  orbMax_ge : p.orbMin - 1 + maxWrite p ≤ p.orbMax
  orbMax_lt : p.orbMax < 2 ^ 24

end Sys2Proof.Machine
end

