-- ==== Sys2Proof/Machine/Operands.lean ====
section
/-! DEFINITION. The operands of the commands (R92: named implicitly): the operand register ARG0, the lengths and the bytes of
the memories they delimit, the session's next byte, and the pending samples. TONE's immediate is the operand of its constructor. -/

namespace Sys2Proof.Machine

/-- `dataSize`, FEC_SIZE's operand: ARG0 as an unsigned number (R28, R121). -/
def dataSize (s : State) : Nat := s.arg0.toNat

/-- The tuning word, TONE's operand: ARG0 (R28, R184). -/
def toneWord (s : State) : Word := s.arg0

/-- SRC_LEN as a number (R31). -/
def srcLength (s : State) : Nat := s.srcLen.toNat

/-- COD_LEN as a number (R32). -/
def codLength (s : State) : Nat := s.codLen.toNat

/-- The number of chunks of an input of `n` bytes: ceil(n / 223) (R119). -/
def chunkCount (n : Nat) : Nat := (n + (Config.rsK - 1)) / Config.rsK

/-- Chunk `c` of SRC[0..SRC_LEN): SRC[223c .. min(223c + 223, SRC_LEN)) (R119). -/
def srcChunk (c : Nat) (s : State) : List Byte :=
  bytesAt .src (Config.rsK * c) (min (Config.rsK * c + Config.rsK) (srcLength s) - Config.rsK * c) s

/-- The escaper's input COD[0..COD_LEN) (R144, R145). -/
def codBytes (s : State) : List Byte := bytesAt .cod 0 (codLength s) s

/-- The session's next byte TXB[CURSOR] (R179). -/
def sessionByte (s : State) : Byte := byteAt .txb s.cursor.toNat s

/-- The pending samples ORB[0..ORB_SIZE), oldest first (R200). -/
def pendingSamples (s : State) : List Byte := bytesAt .orb 0 s.orbSize.toNat s

end Sys2Proof.Machine
end

