-- ==== Sys2Proof/Machine/Escape.lean ====
section
/-! DEFINITION. The escaper: the mapping, its inverse for reference, and the commands ESC_COUNT and ESC_ESCAPE (file 41_escape.md). -/

namespace Sys2Proof.Machine

/-- `IsReserved(b)` (R141). -/
def isReserved (b : Byte) : Bool := decide (b = Config.escByte) || decide (b = Config.syncByte)

/-- `CountReserved(B)` (R141). -/
def countReserved (bs : List Byte) : Nat := bs.countP isReserved

/-- The output bytes of one input byte (R142). -/
def escapeByte (b : Byte) : List Byte :=
  if b = Config.escByte then [Config.escByte, Config.escByte]
  else if b = Config.syncByte then [Config.escByte, Config.syncSub]
  else [b]

/-- `Escape(B)` (R142). -/
def escape (bs : List Byte) : List Byte := bs.flatMap escapeByte

/-- `Unescape(E)`, a receiver's inverse, for reference: the block has none (R147). `none` is "malformed". -/
def unescape : List Byte → Option (List Byte)
  | [] => some []
  | [b] => if b = Config.escByte then none else some [b]
  | a :: b :: rest =>
    if a = Config.escByte then
      if b = Config.escByte then (unescape rest).map (fun out => Config.escByte :: out)
      else if b = Config.syncSub then (unescape rest).map (fun out => Config.syncByte :: out)
      else none
    else (unescape (b :: rest)).map (fun out => a :: out)

/-- Scanning from the left, every 0x54 met is followed by 0x54 or 0x9F, which the scan skips (R143 (c)). -/
def escapesPairUp : List Byte → Bool
  | [] => true
  | [b] => decide (b ≠ Config.escByte)
  | a :: b :: rest =>
    if a = Config.escByte then (decide (b = Config.escByte) || decide (b = Config.syncSub)) && escapesPairUp rest
    else escapesPairUp (b :: rest)

/-- ESC_COUNT after the common checks (R144). -/
def escCountBody (s : State) : State :=
  finishWith .ok { s with res0 := BitVec.ofNat 32 (countReserved (codBytes s)) }

/-- The operation of ESC_ESCAPE: TXB[0..w) <- Escape(COD[0..COD_LEN)), w its length (R145; log 14). -/
def escapeCoded (s : State) : State :=
  let out := escape (codBytes s)
  { storeBytes .txb 0 out s with txbLen := BitVec.ofNat 32 out.length, res0 := BitVec.ofNat 32 out.length }

/-- ESC_ESCAPE after the common checks (R145). -/
def escEscapeBody (s : State) : State :=
  if s.status.transmitting then raiseFault .badState 0 s
  else if codLength s = 0 then finishError .validation s
  else finishWith .ok (escapeCoded s)

/-- ESC_COUNT (R144). -/
def execEscCount (s : State) : Host.Outcome State Fault Refusal :=
  unlessFaulted s (fun s => .next (escCountBody s))

/-- ESC_ESCAPE (R145). -/
def execEscEscape (s : State) : Host.Outcome State Fault Refusal :=
  unlessFaulted s (fun s => .next (escEscapeBody s))

end Sys2Proof.Machine
end

