-- ==== Sys2Proof/Machine/Fec.lean ====
section
/-! DEFINITION. The FEC unit: the block encoder and the commands FEC_SIZE and FEC_ENCODE (file 40_fec.md). -/

namespace Sys2Proof.Machine

/-- The message m[0..223): the chunk, then zero bytes (R116, 90_conflicts.md C1). -/
def paddedMessage (chunk : List Byte) : List Byte :=
  chunk ++ List.replicate (Config.rsK - chunk.length) 0

/-- One message symbol of the shift register: `fb <- m ⊕ PAR[31]`, PAR[i] <- PAR[i−1] ⊕ GfMul(fb, GEN[i]) for i from 31 down
to 1, PAR[0] <- GfMul(fb, GEN[0]) (R116). `par` lists PAR[0..31] and `gen` GEN[0..32]. -/
def parStep (prim : BitVec 9) (gen : List Byte) (par : List Byte) (m : Byte) : List Byte :=
  let fb := m ^^^ par.getD 31 0
  List.zipWith (fun before g => before ^^^ gfMul prim fb g) (0 :: par.take 31) gen

/-- PAR[0..31] after all symbols of a message, from PAR cleared (R41, R116). -/
def parAfter (prim : BitVec 9) (message : List Byte) : List Byte :=
  message.foldl (parStep prim (generator prim)) (List.replicate Config.rsT2 0)

/-- `EncodeBlock(chunk)`: the padded message and then the parity, the highest-order remainder coefficient PAR[31] first
(R116). -/
def encodeBlock (prim : BitVec 9) (chunk : List Byte) : List Byte :=
  paddedMessage chunk ++ (parAfter prim (paddedMessage chunk)).reverse

/-- PAR as the register file holds it. -/
def parFile (par : List Byte) : Vector Byte 32 := Vector.ofFn (fun i => par.getD i.val 0)

/-- The codewords of all chunks of SRC[0..SRC_LEN), in order (R119, R122). -/
def codewords (s : State) : List (List Byte) :=
  (List.range (chunkCount (srcLength s))).map (fun c => encodeBlock s.params.rsPrim (srcChunk c s))

/-- FEC_SIZE after the common checks (R121). -/
def fecSizeBody (s : State) : State :=
  if fecSize (dataSize s) > 0xFFFFFFFF then finishError .validation s
  else finishWith .ok { s with res0 := BitVec.ofNat 32 (fecSize (dataSize s)) }

/-- The operation of FEC_ENCODE (R122). PAR is left with the last chunk's remainder (R41,
log 19). -/
def encodeSource (s : State) : State :=
  let chunks := chunkCount (srcLength s)
  { storeBytes .cod 0 (codewords s).flatten s with
    codLen := BitVec.ofNat 32 (Config.rsN * chunks)
    res0 := BitVec.ofNat 32 (Config.rsN * chunks)
    par := parFile (parAfter s.params.rsPrim (paddedMessage (srcChunk (chunks - 1) s))) }

/-- FEC_ENCODE after the common checks (R122). -/
def fecEncodeBody (s : State) : State :=
  if s.status.transmitting then raiseFault .badState 0 s
  else if srcLength s = 0 then finishError .validation s
  else finishWith .ok (encodeSource s)

/-- FEC_SIZE (R121). -/
def execFecSize (s : State) : Host.Outcome State Fault Refusal :=
  unlessFaulted s (fun s => .next (fecSizeBody s))

/-- FEC_ENCODE (R122). -/
def execFecEncode (s : State) : Host.Outcome State Fault Refusal :=
  unlessFaulted s (fun s => .next (fecEncodeBody s))

end Sys2Proof.Machine
end

