-- ==== Sys2Proof/Machine/RingBuffer.lean ====
section
/-! DEFINITION. The output ring buffer, the polls and hand-offs, and the command ORB_FLUSH (file 43_ring_buffer.md). -/

namespace Sys2Proof.Machine

/-- A part of a command either goes on or has ended the command by a `Finish` or a `Fault` (R13, R221). -/
inductive Flow where
  /-- The command goes on from this state. -/
  | goesOn (s : State)
  /-- The command has ended in this state. -/
  | ended (s : State)

/-- `Poll` (R172): `if not SinkPoll() then Finish(ST_BUSY, 0, 0)`. -/
def pollOrBusy (s : State) : Flow :=
  if (sinkPoll s).1 then .goesOn (sinkPoll s).2 else .ended (finishWith .busy (sinkPoll s).2)

/-- Whether `len` more bytes fit into ORB; exactly the free space fits (R201). -/
def orbHasRoom (len : Nat) (s : State) : Bool := decide (s.orbSize.toNat + len ≤ s.params.orbMax)

/-- `OrbWrite(s)` where the bytes fit: all are appended at ORB_SIZE (R201). -/
def orbWrite (samples : List Byte) (s : State) : State :=
  { storeBytes .orb s.orbSize.toNat samples s with
    orbSize := BitVec.ofNat 32 (s.orbSize.toNat + samples.length) }

/-- `SinkHandoff(ORB[0..ORB_SIZE)); ORB_SIZE <- 0` (R202, R203). -/
def handOffPending (s : State) : State :=
  { sinkHandoff (pendingSamples s) s with orbSize := 0 }

/-- `OrbHandoff()` where `EmitUnit` calls it: at or above the threshold, all pending samples go to the sink, with no padding
and no poll (R163, R203). -/
def autoHandoff (s : State) : State :=
  if s.params.orbMin ≤ s.orbSize.toNat then handOffPending s else s

/-- The zero padding of a flush: below the threshold, zero bytes up to ORB_MIN (R202). -/
def padToThreshold (s : State) : State :=
  if s.orbSize.toNat < s.params.orbMin then orbWrite (List.replicate (s.params.orbMin - s.orbSize.toNat) 0) s else s

/-- `OrbFlush()` (R202). PHASE is not touched. -/
def orbFlush (s : State) : State := handOffPending (padToThreshold s)

/-- `EmitUnit(len, gen)` (R163): the capacity check, then the synthesis, which advances PHASE, the write, and the
automatic hand-off. `gen` makes the unit's samples from PHASE and gives PHASE after them. -/
def emitUnit (len : Nat) (gen : Word → List Byte × Word) (s : State) : Flow :=
  if orbHasRoom len s then
    let made := gen s.phase
    .goesOn (autoHandoff (orbWrite made.1 { s with phase := made.2 }))
  else .ended (raiseFault .orbOverflow (BitVec.ofNat 32 (s.orbSize.toNat + len)) s)

/-- ORB_FLUSH after the common checks (R207). -/
def orbFlushBody (s : State) : State :=
  if s.orbSize = 0 then finishWith .ok s
  else
    match pollOrBusy s with
    | .ended t => t
    | .goesOn s1 => finishWith .ok (orbFlush s1)

/-- ORB_FLUSH (R207). -/
def execOrbFlush (s : State) : Host.Outcome State Fault Refusal :=
  unlessFaulted s (fun s => .next (orbFlushBody s))

end Sys2Proof.Machine
end

