-- ==== Sys2Proof/Machine/Modulator.lean ====
section
/-! DEFINITION. The modulator: synthesis, frames, the sequencer, and the commands TX_START, TX_PUMP, TX_CANCEL and TONE (file
42_modulator.md). -/

namespace Sys2Proof.Machine

/-! ## Synthesis and frames -/

/-- The sample at a phase: SINE at the top log2(SIN_LEN) bits of PHASE, truncated (R159; log 20). -/
def sineAt (p : Params) (phase : Word) : Byte := p.sine.getD (phase.toNat >>> (32 - Nat.log2 p.sinLen)) 0

/-- The loop of `Synth(w, n)` for w ≠ 0: each sample is read at the current phase, then the phase is advanced modulo 2^32
(R159). -/
def synthRun (p : Params) (w : Word) : Nat → Word → List Byte × Word
  | 0, phase => ([], phase)
  | n + 1, phase =>
    let later := synthRun p w n (phase + w)
    (sineAt p phase :: later.1, later.2)

/-- `Synth(w, n)` from a phase: the samples and the phase after them. The zero-frequency tone is silence and clears the
phase (R159, R160). -/
def synth (p : Params) (w : Word) (n : Nat) (phase : Word) : List Byte × Word :=
  if w = 0 then (List.replicate n 0, 0) else synthRun p w n phase

/-- The tuning word of a bit: mark for 1, space for 0 (R162). -/
def toneOfBit (p : Params) (bit : Bool) : Word := if bit then p.ftwMark else p.ftwSpace

/-- `BitsOf(b, msb)`: the bits of a byte in sending order (R164). -/
def bitsOf (b : Byte) (msb : Bool) : List Bool :=
  if msb then (List.range 8).reverse.map (fun i => b.getLsbD i) else (List.range 8).map (fun i => b.getLsbD i)

/-- The sixteen bits of a frame: start bits, data bits, stop bits. CFG.INVERT_SS swaps the start and stop values; data bits are
never inverted (R165). -/
def frameBits (cfg : Word) (b : Byte) (msb : Bool) : List Bool :=
  List.replicate Config.startBits (invertSs cfg) ++ bitsOf b msb ++ List.replicate Config.stopBits (!invertSs cfg)

/-- The samples of a sequence of bits, each a tone of NS_BIT samples, the phase running through them all (R155, R161). -/
def synthBits (p : Params) : List Bool → Word → List Byte × Word
  | [], phase => ([], phase)
  | bit :: bits, phase =>
    let first := synth p (toneOfBit p bit) p.nsBit phase
    let later := synthBits p bits first.2
    (first.1 ++ later.1, later.2)

/-- `FrameSamples(b, msb)` from a phase (R166). -/
def frameSamples (p : Params) (cfg : Word) (b : Byte) (msb : Bool) (phase : Word) : List Byte × Word :=
  synthBits p (frameBits cfg b msb) phase

/-! ## The units of a session -/

/-- The leader: one mark tone (R167). -/
def leaderTone (p : Params) : Word → List Byte × Word := synth p p.ftwMark (leaderNs p)

/-- A sync frame: the byte 0xAB, always bit 7 first, start and stop polarity by CFG (R168). -/
def syncFrame (p : Params) (cfg : Word) : Word → List Byte × Word := frameSamples p cfg Config.syncByte true

/-- The frame of a data byte, in the bit order of CFG.MSB_FIRST (R165, R172). -/
def dataFrame (p : Params) (cfg : Word) (b : Byte) : Word → List Byte × Word := frameSamples p cfg b (msbFirst cfg)

/-- The trailer: one mark tone (R169). -/
def trailerTone (p : Params) : Word → List Byte × Word := synth p p.ftwMark (trailerNs p)

/-- The flush tone: silence, and PHASE cleared (R169). -/
def flushTone (p : Params) : Word → List Byte × Word := synth p 0 p.flushNs

/-! ## The sequencer -/

/-- `MSTATE <- m`. -/
def setMState (m : MState) (s : State) : State := { s with status := { s.status with mstate := m } }

/-- One pass of the sequencer's loop (R172): the loop goes round with the bytes consumed so far, the command has ended, or
MSTATE is M_IDLE. -/
inductive Pass where
  | again (n : Nat) (s : State)
  | done (s : State)
  | idle

/-- A pass that polls, emits one unit and moves MSTATE on. -/
def unitPass (n len : Nat) (gen : Word → List Byte × Word) (next : MState) (s : State) : Pass :=
  match pollOrBusy s with
  | .ended t => .done t
  | .goesOn s1 =>
    match emitUnit len gen s1 with
    | .ended t => .done t
    | .goesOn s2 => .again n (setMState next s2)

/-- The data byte of a pass in M_DATA with CURSOR ≠ SES_LEN and the bound not reached: the poll, the byte fetch, the sync
check, the frame, and CURSOR + 1 (R172, R179). -/
def dataBytePass (n : Nat) (s : State) : Pass :=
  match pollOrBusy s with
  | .ended t => .done t
  | .goesOn s1 =>
    if sessionByte s1 = Config.syncByte then .done (raiseFault .unescapedSync s1.cursor s1)
    else
      match emitUnit (frameNs s1.params) (dataFrame s1.params s1.cfg (sessionByte s1)) s1 with
      | .ended t => .done t
      | .goesOn s2 => .again (n + 1) { s2 with cursor := s2.cursor + 1 }

/-- The pass in M_DATA (R172): the call that sent the last byte ends; the next one goes on to the trailer (R175). -/
def dataPass (n : Nat) (s : State) : Pass :=
  if s.cursor = s.sesLen then
    if n > 0 then .done (finishWith .inProgress s) else .again n (setMState .trailer s)
  else if n = Config.pumpMax then .done (finishWith .inProgress s)
  else dataBytePass n s

/-- The pass in M_DRAIN: the final flush, when anything is pending (R172). -/
def drainPass (n : Nat) (s : State) : Pass :=
  if s.orbSize = 0 then .again n (setMState .finish s)
  else
    match pollOrBusy s with
    | .ended t => .done t
    | .goesOn s1 => .again n (setMState .finish (orbFlush s1))

/-- The session is destroyed: TRANSMITTING, CANCELLING, SES_LEN and CURSOR cleared, MSTATE = M_IDLE (R172, R181). -/
def endSession (s : State) : State :=
  { s with
    status := { s.status with transmitting := false, cancelling := false, mstate := .idle }
    sesLen := 0
    cursor := 0 }

/-- The pass in M_FINISH: the completion poll and the end of the session (R172). -/
def finishPass (s : State) : Pass :=
  match pollOrBusy s with
  | .ended t => .done t
  | .goesOn s1 => .done (finishWith (if s1.status.cancelling then .cancelled else .complete) (endSession s1))

/-- One pass of the loop of `RunSequencer` (R172), the arms in its order. -/
def sequencerPass (n : Nat) (s : State) : Pass :=
  match s.status.mstate with
  | .leader => unitPass n (leaderNs s.params) (leaderTone s.params) .sync0 s
  | .sync0 => unitPass n (frameNs s.params) (syncFrame s.params s.cfg) .sync1 s
  | .sync1 => unitPass n (frameNs s.params) (syncFrame s.params s.cfg) .data s
  | .data => dataPass n s
  | .trailer =>
    unitPass n (trailerNs s.params) (trailerTone s.params) (if s.status.cancelling then .flushTone else .drain) s
  | .flushTone => unitPass n s.params.flushNs (flushTone s.params) .drain s
  | .drain => drainPass n s
  | .finish => finishPass s
  | .idle => .idle

/-- The loop, with a bound on its passes (R172: "It always ends"). -/
def sequencerLoop : Nat → Nat → State → Host.Outcome State Fault Refusal
  | 0, _, _ => .fault .sequencerOverrun
  | passes + 1, n, s =>
    match sequencerPass n s with
    | .again n' s' => sequencerLoop passes n' s'
    | .done s' => .next s'
    | .idle => .fault .sequencerIdle

/-- More passes than one call can make: at most PUMP_MAX data bytes, and each other pass moves MSTATE forward (R172). -/
abbrev passLimit : Nat := Config.pumpMax + 9

/-- `RunSequencer()` (R172). -/
def runSequencer (s : State) : Host.Outcome State Fault Refusal := sequencerLoop passLimit 0 s

/-! ## The commands -/

/-- The operation of TX_START (R176). -/
def openSession (s : State) : State :=
  { s with
    sesLen := s.txbLen
    cursor := 0
    status := { s.status with cancelling := false, transmitting := true, mstate := .leader } }

/-- TX_START after the common checks (R176). -/
def txStartBody (s : State) : State :=
  if s.status.transmitting then raiseFault .badState 0 s
  else if s.txbLen = 0 then finishError .validation s
  else finishWith .ok (openSession s)

/-- The states from which a cancellation goes to the trailer (R171, R182). -/
def beforeTrailer : MState → Bool
  | .leader | .sync0 | .sync1 | .data => true
  | .idle | .trailer | .flushTone | .drain | .finish => false

/-- What TX_CANCEL does before it runs the sequencer (R182). -/
def beginCancel (s : State) : State :=
  if s.status.cancelling then s
  else
    { s with
      status := { s.status with
        cancelling := true
        mstate := if beforeTrailer s.status.mstate then .trailer else s.status.mstate } }

/-- TONE after the common checks (R184). -/
def toneBody (nsamples : Nat) (s : State) : State :=
  if s.status.transmitting then raiseFault .badState 0 s
  else
    match pollOrBusy s with
    | .ended t => t
    | .goesOn s1 =>
      match emitUnit nsamples (synth s1.params (toneWord s1) nsamples) s1 with
      | .ended t => t
      | .goesOn s2 => finishWith .ok s2

/-- TX_START (R176). -/
def execTxStart (s : State) : Host.Outcome State Fault Refusal :=
  unlessFaulted s (fun s => .next (txStartBody s))

/-- TX_PUMP (R177). -/
def execTxPump (s : State) : Host.Outcome State Fault Refusal :=
  unlessFaulted s (fun s => if s.status.transmitting then runSequencer s else .next (raiseFault .noSession 0 s))

/-- TX_CANCEL (R182). -/
def execTxCancel (s : State) : Host.Outcome State Fault Refusal :=
  unlessFaulted s (fun s =>
    if s.status.transmitting then runSequencer (beginCancel s) else .next (finishError .validation s))

/-- TONE (R184). -/
def execTone (nsamples : Nat) (s : State) : Host.Outcome State Fault Refusal :=
  unlessFaulted s (fun s => .next (toneBody nsamples s))

end Sys2Proof.Machine
end

