-- ==== Sys2Proof/Machine/System.lean ====
section
/-! DEFINITION. The command RESET and the illegal command word (file 44_system.md). -/

namespace Sys2Proof.Machine

/-- RESET: no checks; it runs with FAULT = 1 too (R223). -/
def execReset (s : State) : Host.Outcome State Fault Refusal := .next (doReset s)

/-- A CMD write whose word no command has: refused while FAULT = 1, else EC_ILLEGAL_CMD with the word as detail (R97, R220,
R234). -/
def execIllegal (w : Word) (s : State) : Host.Outcome State Fault Refusal :=
  unlessFaulted s (fun s => .next (raiseFault .illegalCmd w s))

end Sys2Proof.Machine
end

