-- ==== Sys2Proof/Machine/Dispatch.lean ====
section
/-! DEFINITION. The meaning of each command, one arm per constructor of `Instr`. The state is the one right after CMD was
written (R220). -/

namespace Sys2Proof.Machine

def exec (i : Instr) (s : State) : Host.Outcome State Fault Refusal :=
  match i with
  | .fecSize => Sys2Proof.Machine.execFecSize s
  | .fecEncode => Sys2Proof.Machine.execFecEncode s
  | .escCount => Sys2Proof.Machine.execEscCount s
  | .escEscape => Sys2Proof.Machine.execEscEscape s
  | .txStart => Sys2Proof.Machine.execTxStart s
  | .txPump => Sys2Proof.Machine.execTxPump s
  | .txCancel => Sys2Proof.Machine.execTxCancel s
  | .tone nsamples => Sys2Proof.Machine.execTone nsamples s
  | .orbFlush => Sys2Proof.Machine.execOrbFlush s
  | .reset => Sys2Proof.Machine.execReset s

end Sys2Proof.Machine
end

