-- ==== Sys2Proof/Machine/Port.lean ====
section
/-! DEFINITION. The host port (file 20_memory.md): how a request is served, and how a write to CMD becomes a command (R220). -/

namespace Sys2Proof.Machine

/-- The block gives a port response (R61). -/
def respond (r : Response) (s : State) : State := { s with responses := s.responses ++ [r] }

/-- The data a read request is answered with, or `none` where it is refused (R63, R64, R65, R68). -/
def portRead (q : Request) (s : State) : Option Word :=
  match spaceOfCode q.space with
  | none => none
  | some .reg => readReg q.offset s
  | some (.mem b) =>
    if q.offset.toNat < spaceSize b s.params then some ((hostByte b q.offset.toNat s).zeroExtend 32) else none

/-- The state after a write request that is no write to CMD, or `none` where it is refused (R63 to R68). Of the byte
memories the host may write SRC only, and not during a session (R60, R66, R67). -/
def portWrite (q : Request) (s : State) : Option State :=
  match spaceOfCode q.space with
  | none => none
  | some .reg => writeReg q.offset q.wdata s
  | some (.mem .src) =>
    if q.offset.toNat < s.params.srcMax ∧ q.wdata.extractLsb' 8 24 = 0 ∧ s.status.transmitting = false then
      some (storeBytes .src q.offset.toNat [q.wdata.extractLsb' 0 8] s)
    else none
  | some (.mem .cod) => none
  | some (.mem .txb) => none
  | some (.mem .orb) => none

/-- Whether a request is a write to CMD. -/
def isCmdWrite (q : Request) : Bool := q.we && decide (q.space = 0) && decide (q.offset = cmdOffset)

/-- The word is stored in CMD (R22) and the port's answer is `OK(0)`, whatever the command will do (R220,
log 13). -/
def acceptCmd (w : Word) (s : State) : State := respond (.ok 0) { s with cmd := w }

/-- `ExecuteCmdWrite(w)` (R220): RESET, the fault check and the commands' own checks stand in their meanings. -/
def executeCmdWrite (w : Word) (s : State) : Host.Outcome State Fault Refusal :=
  match decode w with
  | .ok i => exec i (acceptCmd w s)
  | .error _ => execIllegal w (acceptCmd w s)

/-- The answer to a read request; a read changes nothing (R73). -/
def readResponse (q : Request) (s : State) : Response :=
  match portRead q s with
  | some v => .ok v
  | none => .err

/-- A write request that is no write to CMD is stored and answered `OK(0)`, or refused (R61). -/
def serveWrite (q : Request) (s : State) : State :=
  match portWrite q s with
  | some t => respond (.ok 0) t
  | none => respond .err s

/-- One port request in its packed form, from its arrival to its response (R8, R62, R90). -/
def serveRequest (r : BitVec 64) (s : State) : Host.Outcome State Fault Refusal :=
  match unpackRequest r with
  | none => .next (respond .err s)
  | some q =>
    if isCmdWrite q then executeCmdWrite q.wdata s
    else if q.we then .next (serveWrite q s)
    else .next (respond (readResponse q s) s)

/-- The state with the next event taken off the host's list. -/
def popInput (s : State) : State := { s with inputs := s.inputs.drop 1 }

/-- The host's next event, if there is one: the block does nothing on its own (R6, R237, R260). -/
def serveNext (s : State) : Host.Outcome State Fault Refusal :=
  match s.inputs with
  | [] => .next s
  | .request r :: _ => serveRequest r (popInput s)
  | .rst :: _ => .next (powerOnReset (popInput s))

/-- The host is about to write the word `w` to CMD. -/
def issueCmd (w : Word) (s : State) : State :=
  { s with inputs := .request (packRequest (cmdRequest w)) :: s.inputs }

end Sys2Proof.Machine
end

