-- ==== Sys2Proof/Machine/Step.lean ====
section
/-! DEFINITION. One step of the machine: the next event of the host is served whole (R8). -/

namespace Sys2Proof.Machine

/-- One step (R8, R62). -/
def step (s : State) : Host.Outcome State Fault Refusal := serveNext s

/-- The state with the command word `w` (its bits above `nbits` 0) as the host's next event: the block fetches no
instructions, a command comes as a write to CMD (R2, R22, log 4). -/
def State.withFetchWord (s : State) (nbits w : Nat) : State := issueCmd (BitVec.ofNat 32 (w % 2 ^ nbits)) s

end Sys2Proof.Machine
end

