-- ==== Sys2Proof/Machine/Script.lean ====
section
/-! DEFINITION. The host's side in the script syntax of R99 and the pseudo-commands of R100: lines become port requests, and a
player issues them one at a time. -/

namespace Sys2Proof.Machine

/-- The registers by name (section 2 of 10_state.md). -/
inductive RegName where
  | id | cmd | status | errinfo | arg0 | res0 | cfg | srcLen | codLen | txbLen | sesLen | cursor | orbSize | phase
  deriving DecidableEq, Repr

/-- The offset of a register (section 2 of 10_state.md). -/
def regOffset : RegName → BitVec 24
  | .id => 0x00
  | .cmd => 0x04
  | .status => 0x08
  | .errinfo => 0x0C
  | .arg0 => 0x10
  | .res0 => 0x14
  | .cfg => 0x18
  | .srcLen => 0x1C
  | .codLen => 0x20
  | .txbLen => 0x24
  | .sesLen => 0x28
  | .cursor => 0x2C
  | .orbSize => 0x30
  | .phase => 0x34

/-- A line of a script (R99). A register name stands for its offset in REG. -/
inductive ScriptLine where
  /-- `WR <space>[<off>], <v>`. -/
  | wr (space : Space) (off : BitVec 24) (v : Word)
  /-- `RD <space>[<off>]`, with the expected response where the line gives one. -/
  | rd (space : Space) (off : BitVec 24) (expected : Option Response)
  /-- `SINK <answers>`: the answers of the next polls, `true` for `R`. A final `R*` or `B*` has no finite
  list: a script writes as many answers as it needs (log 23). -/
  | sink (answers : List Bool)
  /-- `EXPECT <REGNAME>.<FIELD> = <v>`: the field's lowest bit and width; the whole register is bits 31:0. -/
  | expect (r : RegName) (lo width v : Nat)
  deriving DecidableEq, Repr

/-- `WR <REGNAME>, <v>`. -/
def wrReg (r : RegName) (v : Word) : ScriptLine := .wr .reg (regOffset r) v

/-- `RD <REGNAME> -> <v>`. -/
def rdReg (r : RegName) (v : Word) : ScriptLine := .rd .reg (regOffset r) (some (.ok v))

/-- `CMD <MNEMONIC>` and `CMD TONE <n>`. -/
def cmdLine (i : Instr) : ScriptLine := .wr .reg cmdOffset (encode i)

/-- `LOAD_SRC b0 b1 …` (R100). -/
def loadSrc (bs : List Byte) : List ScriptLine :=
  (List.range bs.length).map (fun i => .wr (.mem .src) (BitVec.ofNat 24 i) ((bs.getD i 0).zeroExtend 32)) ++
    [wrReg .srcLen (BitVec.ofNat 32 bs.length)]

/-- The packed write request of a line `WR` (R99). -/
def writeRequest (space : Space) (off : BitVec 24) (v : Word) : BitVec 64 :=
  packRequest { we := true, space := codeOfSpace space, offset := off, wdata := v }

/-- The packed read request of a line `RD` (R99). -/
def readRequest (space : Space) (off : BitVec 24) : BitVec 64 :=
  packRequest { we := false, space := codeOfSpace space, offset := off, wdata := 0 }

/-- The host issues one request and the block serves it: the state after it and the response. `none` where the machine
stops. -/
def issue (r : BitVec 64) (s : State) : Option (State × Response) :=
  match step { s with inputs := .request r :: s.inputs } with
  | .next t => t.responses.getLast?.map (fun answer => (t, answer))
  | .fault _ => none
  | .refused _ => none

/-- One line of a script. `none` where an expectation fails or the machine stops. -/
def playLine (l : ScriptLine) (s : State) : Option State :=
  match l with
  | .wr space off v => (issue (writeRequest space off v) s).map (fun r => r.1)
  | .rd space off expected =>
    (issue (readRequest space off) s).bind
      (fun r => if expected = none ∨ expected = some r.2 then some r.1 else none)
  | .sink answers => some { s with sinkAnswers := answers }
  | .expect reg lo width v =>
    (issue (readRequest .reg (regOffset reg)) s).bind
      (fun r =>
        match r.2 with
        | .ok w => if w.toNat / 2 ^ lo % 2 ^ width = v then some r.1 else none
        | .err => none)

/-- A script (R99). -/
def play : List ScriptLine → State → Option State
  | [], s => some s
  | l :: ls, s => (playLine l s).bind (play ls)

/-- The host issues a command: the state after it. `none` where the machine stops. -/
def hostCmd (i : Instr) (s : State) : Option State := playLine (cmdLine i) s

/-- The host issues a command and then repeats it while its status is one of `codes`, at most `more` times more; `none` where it
would have to go on (R100; a loop ends only with a fair sink, R270). -/
def hostRepeat (i : Instr) (codes : List Code) : Nat → State → Option State
  | 0, s => (hostCmd i s).bind (fun t => if t.status.code ∈ codes then none else some t)
  | more + 1, s => (hostCmd i s).bind (fun t => if t.status.code ∈ codes then hostRepeat i codes more t else some t)

/-- `PREPARE` (R100): FEC_ENCODE, then ESC_ESCAPE, stopping at the first that does not end in ST_OK. -/
def prepare (s : State) : Option State :=
  (hostCmd .fecEncode s).bind (fun t => if t.status.code = .ok then hostCmd .escEscape t else some t)

/-- `SEND` (R100), with at most `more` further pumps. -/
def send (more : Nat) (s : State) : Option State :=
  (hostCmd .txStart s).bind (hostRepeat .txPump [.inProgress, .busy] more)

/-- `ABORT` (R100). -/
def abort (more : Nat) (s : State) : Option State := hostRepeat .txCancel [.busy] more s

/-- `DRAIN` (R100). -/
def drainPending (more : Nat) (s : State) : Option State := hostRepeat .orbFlush [.busy] more s

end Sys2Proof.Machine
end

