-- ==== Sys2Proof/Safety.lean ====
section
/-! DEFINITION. The terms that claims use: the invariant of R52, what a port refusal is (R65 to R68), the stream of samples
(R77, R185), and runs of pumps (R175). -/

namespace Sys2Proof.Machine

/-! ## The invariant (R52) -/

/-- The offsets a memory lists are inside its space. -/
abbrev inSpace (b : ByteSpace) (s : State) : Prop := ∀ c ∈ memOf b s, c.1 < spaceSize b s.params

/-- The closing states of R171: those from M_TRAILER on. -/
def closing : MState → Bool
  | .trailer | .flushTone | .drain | .finish => true
  | .idle | .leader | .sync0 | .sync1 | .data => false

/-- What holds after reset and after every port request (R52), with the facts about the memories it rests on. -/
structure Inv (s : State) : Prop where
  /-- The configuration is one of this hardware (R10). -/
  params : ValidParams s.params
  /-- Item 1. -/
  orbSize_lt : s.orbSize.toNat < s.params.orbMin
  /-- Item 2. -/
  cursor_le : s.cursor.toNat ≤ s.sesLen.toNat
  sesLen_le : s.sesLen.toNat ≤ s.params.txbMax
  codLen_le : s.codLen.toNat ≤ s.params.codMax
  codLen_mod : s.codLen.toNat % Config.rsN = 0
  txbLen_le : s.txbLen.toNat ≤ s.params.txbMax
  srcLen_le : s.srcLen.toNat ≤ s.params.srcMax
  /-- Item 3. -/
  idle_iff : s.status.transmitting = false ↔ s.status.mstate = .idle
  noSession : s.status.transmitting = false → s.sesLen = 0 ∧ s.cursor = 0 ∧ s.status.cancelling = false
  /-- Item 4; that TXB does not change in a session is a claim about steps. -/
  session : s.status.transmitting = true → s.sesLen = s.txbLen ∧ 1 ≤ s.sesLen.toNat
  /-- Item 5. -/
  preamble : s.status.mstate = .leader ∨ s.status.mstate = .sync0 ∨ s.status.mstate = .sync1 → s.cursor = 0
  flushTone : s.status.mstate = .flushTone → s.status.cancelling = true
  /-- A cancelled session is in its closing sequence (R171, R182). -/
  cancelling_closing : s.status.cancelling = true → closing s.status.mstate = true
  /-- Past the final flush nothing is pending (R171, R181). -/
  finish_drained : s.status.mstate = .finish → s.orbSize = 0
  /-- Item 6. -/
  fault_iff : s.status.fault = true ↔ s.status.fcause ≠ .none
  /-- Item 7. -/
  statusReserved : statusWord s.status &&& 0xFFF00800 = 0
  codeLegal : (codeBits s.status.code).toNat ≤ 5
  causeLegal : (causeBits s.status.cause).toNat ≤ 9
  mstateLegal : (mstateBits s.status.mstate).toNat ≤ 8
  cfgReserved : cfgLegal s.cfg = true
  /-- The memories are in canonical form, inside their spaces. -/
  src_wf : s.src.wf
  cod_wf : s.cod.wf
  txb_wf : s.txb.wf
  orb_wf : s.orb.wf
  /-- The stale offsets of SRC are in canonical form, inside the space. -/
  srcStale_wf : s.srcStale.Pairwise (fun a b => a < b)
  srcStale_in : ∀ a ∈ s.srcStale, a < s.params.srcMax
  src_in : inSpace .src s
  cod_in : inSpace .cod s
  txb_in : inSpace .txb s
  orb_in : inSpace .orb s
  /-- TXB holds what ESC_ESCAPE wrote: every byte of the session is written and none is the sync value (R143 (b), R179). -/
  txb_clean : ∀ a, a < s.txbLen.toNat → ∃ b, memAt s.txb a = some b ∧ b ≠ Config.syncByte

/-! ## The port -/

/-- The offsets of the read-only registers: ID, STATUS, ERRINFO, RES0, COD_LEN, TXB_LEN, SES_LEN, CURSOR, ORB_SIZE and PHASE
(R66). -/
def readOnlyOffsets : List Nat := [0x00, 0x08, 0x0C, 0x14, 0x20, 0x24, 0x28, 0x2C, 0x30, 0x34]

/-- Unmapped and misaligned requests (R65, R68). -/
abbrev unmapped (q : Request) (s : State) : Prop :=
  5 ≤ q.space.toNat ∨
  (q.space = 0 ∧ (q.offset.toNat % 4 ≠ 0 ∨ 0x38 ≤ q.offset.toNat)) ∨
  (q.space = 1 ∧ s.params.srcMax ≤ q.offset.toNat) ∨
  (q.space = 2 ∧ s.params.codMax ≤ q.offset.toNat) ∨
  (q.space = 3 ∧ s.params.txbMax ≤ q.offset.toNat) ∨
  (q.space = 4 ∧ s.params.orbMax ≤ q.offset.toNat)

/-- Illegal writes (R66). -/
abbrev illegalWrite (q : Request) (s : State) : Prop :=
  (q.space = 0 ∧ q.offset.toNat ∈ readOnlyOffsets) ∨
  q.space = 2 ∨ q.space = 3 ∨ q.space = 4 ∨
  (q.space = 0 ∧ q.offset.toNat = 0x1C ∧ s.params.srcMax < q.wdata.toNat) ∨
  (q.space = 0 ∧ q.offset.toNat = 0x18 ∧ 4 ≤ q.wdata.toNat) ∨
  (q.space = 1 ∧ 256 ≤ q.wdata.toNat)

/-- Writes the session protects from (R67). -/
abbrev protectedWrite (q : Request) (s : State) : Prop :=
  s.status.transmitting = true ∧ (q.space = 1 ∨ (q.space = 0 ∧ (q.offset.toNat = 0x1C ∨ q.offset.toNat = 0x18)))

/-- The requests the port answers `ERR` (R65 to R68). -/
abbrev portRefusal (q : Request) (s : State) : Prop :=
  unmapped q s ∨ (q.we = true ∧ (illegalWrite q s ∨ protectedWrite q s))

/-- The fourteen registers in the order of their offsets (section 2 of 10_state.md). -/
def registerFile (s : State) : List Word :=
  [Config.idValue, s.cmd, statusWord s.status, s.errinfo, s.arg0, s.res0, s.cfg, s.srcLen, s.codLen, s.txbLen, s.sesLen,
    s.cursor, s.orbSize, s.phase]

/-! ## Errors -/

/-- STATUS after `Finish` (R221). -/
def statusAfter (code : Code) (cause : Cause) (st : Status) : Status := { st with code := code, cause := cause }

/-- STATUS after a `Fault` that found FAULT = 0 (R233). -/
def statusFaulted (cause : Cause) (st : Status) : Status :=
  { st with code := .error, cause := cause, fault := true, fcause := cause }

/-- The common check that every command but RESET makes first (R220, R234): with FAULT = 1 the command ends with EC_FAULTED and does
nothing else. -/
def refusedWhileFaulted (i : Instr) (s : State) : Prop :=
  s.status.fault = true →
    exec i s = .next { s with status := statusAfter .error .faulted s.status, errinfo := 0 }

/-! ## The sink and the stream -/

/-- The sink answers the next `k` polls ready, and then as in `later`. -/
def readyFor (k : Nat) (later : List Bool) (s : State) : Prop := s.sinkAnswers = List.replicate k true ++ later

/-- The samples the modulator has produced and no RESET has dropped, in order: those handed off, then those pending (R77). -/
def stream (s : State) : List Byte := s.sinkLog.flatten ++ pendingSamples s

/-- The units of a sequence made one after the other, the phase running through them (R161, R163): the samples of each, and the
phase after the last. -/
def makeUnits : List (Word → List Byte × Word) → Word → List (List Byte) × Word
  | [], phase => ([], phase)
  | gen :: gens, phase =>
    let first := gen phase
    let later := makeUnits gens first.2
    (first.1 :: later.1, later.2)

/-- The units of data bytes, in order (R179). -/
def dataUnits (p : Params) (cfg : Word) (bytes : List Byte) : List (Word → List Byte × Word) :=
  bytes.map (fun b => dataFrame p cfg b)

/-- The units a session has still to send when it is closed at a place of the sequencer (R181 to R183): the trailer, where it is
still to come, and in a cancelled session the flush tone, where that is. -/
def closingUnits (p : Params) (cancelling : Bool) : MState → List (Word → List Byte × Word)
  | .leader | .sync0 | .sync1 | .data | .trailer =>
    synth p p.ftwMark (p.trailerBits * p.nsBit) :: if cancelling then [synth p 0 p.flushNs] else []
  | .flushTone => [synth p 0 p.flushNs]
  | .drain | .finish | .idle => []

/-- The place of the sequencer at which a call that is to go on from `m` makes its first poll (R171): M_DRAIN with nothing pending
is passed without one. -/
def pollingPlace (m : MState) (s : State) : MState := if m = .drain ∧ s.orbSize = 0 then .finish else m

/-- The bytes of the session: TXB[0..SES_LEN) (R34). -/
def sessionBytes (s : State) : List Byte := bytesAt .txb 0 s.sesLen.toNat s

/-- How units written one after the other are cut into hand-offs (R163, R203): the hand-offs, and what stays pending. -/
def cutHandoffs (orbMin : Nat) : List Byte → List (List Byte) → List (List Byte) × List Byte
  | pending, [] => ([], pending)
  | pending, u :: us =>
    if orbMin ≤ (pending ++ u).length then
      let later := cutHandoffs orbMin [] us
      ((pending ++ u) :: later.1, later.2)
    else cutHandoffs orbMin (pending ++ u) us

/-- The runs of ORB's bytes that units written one after the other are stored to, as (offset, length): each at ORB_SIZE, which
grows by the unit's length and falls to 0 at a hand-off (R163). -/
def unitRuns (orbMin : Nat) : Nat → List (List Byte) → List (Nat × Nat)
  | _, [] => []
  | size, u :: us =>
    (size, u.length) :: unitRuns orbMin (if orbMin ≤ size + u.length then 0 else size + u.length) us

/-- The run of ORB's bytes that a flush of `size` pending bytes stores its padding to (R202). -/
def paddingRuns (orbMin size : Nat) : List (Nat × Nat) := if size = 0 then [] else [(size, orbMin - size)]

/-- Every byte of ORB outside the runs is as before. -/
def orbFrame (runs : List (Nat × Nat)) (s t : State) : Prop :=
  ∀ a, (∀ run ∈ runs, a < run.1 ∨ run.1 + run.2 ≤ a) → byteAt .orb a t = byteAt .orb a s

/-- The hand-off of a flush (R202): none when nothing is pending, else the pending samples, zero bytes after them up to the
threshold. -/
def flushBlock (orbMin : Nat) (pending : List Byte) : List (List Byte) :=
  if pending = [] then [] else [pending ++ List.replicate (orbMin - pending.length) 0]

/-- `n` pumps in a row; `none` where the machine stops. -/
def pumps : Nat → State → Option State
  | 0, s => some s
  | n + 1, s =>
    match exec .txPump s with
    | .next t => pumps n t
    | .fault _ => none
    | .refused _ => none

/-- The fields a pump or a cancel may write (R177, R182); every other field is unchanged. Which bytes of ORB it writes `orbFrame`
says. -/
def pumpFrame (s t : State) : Prop :=
  t = { s with
    status := t.status
    errinfo := t.errinfo
    sesLen := t.sesLen
    cursor := t.cursor
    orbSize := t.orbSize
    phase := t.phase
    orb := t.orb
    sinkAnswers := t.sinkAnswers
    sinkLog := t.sinkLog
    polls := t.polls }

/-! ## The sequencer's table -/

/-- The arrows of R171 that the sequencer takes, with CANCELLING as given. -/
def sequencerArrow (cancelling : Bool) : MState → MState → Bool
  | .leader, .sync0 => true
  | .sync0, .sync1 => true
  | .sync1, .data => true
  | .data, .data => true
  | .data, .trailer => true
  | .trailer, .drain => !cancelling
  | .trailer, .flushTone => cancelling
  | .flushTone, .drain => true
  | .drain, .finish => true
  | .finish, .idle => true
  | _, _ => false

/-- The arrows of R171 inside a command: TX_START opens a session, TX_PUMP runs the sequencer, TX_CANCEL goes to the trailer and
runs it with CANCELLING = 1; no other command but RESET moves MSTATE. -/
def arrow (i : Instr) (cancelling : Bool) (a b : MState) : Bool :=
  match i with
  | .txStart => decide (a = .idle ∧ b = .leader)
  | .txPump => sequencerArrow cancelling a b
  | .txCancel => sequencerArrow true a b || (beforeTrailer a && decide (b = .trailer))
  | .fecSize | .fecEncode | .escCount | .escEscape | .tone _ | .orbFlush | .reset => false

end Sys2Proof.Machine
end

