-- ==== Sys2Proof/Certificates/Slice0/Obligations.lean ====
section
/-! DEFINITION. The statements for the provers. Each says which rule or section of the spec it formalises. A statement about a
next state says what every field of it is: by an equation of records, or by a record that names the fields that may differ. -/

open Sys2Proof Sys2Proof.Machine

/-! ## Encoding -/

/-- Decoding the word of a well-formed command gives the command (30_encoding.md sections 2 and 3). -/
def Obligations.DecodeOfEncode : Prop :=
  ∀ i : Instr, i.wellFormed = true → decode (encode i) = .ok i

/-- A legal word is the word of the command it decodes to, which is well formed: every word has one meaning
(30_encoding.md section 3). -/
def Obligations.EncodeOfDecode : Prop :=
  ∀ (w : Word) (i : Instr), decode w = .ok i → i.wellFormed = true ∧ encode i = w

/-- The decoder and the opcode map agree: the word of each row, TONE's count, and the illegal words, which are those
that select no row (30_encoding.md sections 3 and 4). -/
def Obligations.DecodeFollowsTheOpcodeMap : Prop :=
  ∀ w : Word,
    (decode w = .ok .fecSize ↔ w = 0x00000001) ∧
    (decode w = .ok .fecEncode ↔ w = 0x00000002) ∧
    (decode w = .ok .escCount ↔ w = 0x00000003) ∧
    (decode w = .ok .escEscape ↔ w = 0x00000004) ∧
    (decode w = .ok .txStart ↔ w = 0x00000010) ∧
    (decode w = .ok .txPump ↔ w = 0x00000011) ∧
    (decode w = .ok .txCancel ↔ w = 0x00000012) ∧
    (∀ n, decode w = .ok (.tone n) ↔ w &&& 0x000000FF = 0x00000013 ∧ n = w.toNat / 256) ∧
    (decode w = .ok .orbFlush ↔ w = 0x00000020) ∧
    (decode w = .ok .reset ↔ w = 0x0000007F) ∧
    ((∃ e, decode w = .error e) ↔ ∀ row ∈ opcodeTable, w &&& row.mask ≠ row.pattern)

/-- A few words written out from the encoding tables decode to their commands, and three illegal ones to none
(30_encoding.md section 3, 95_test_vectors.md V-SYS-2). -/
def Obligations.SampleWordsDecode : Prop :=
  decode 0x00000001 = .ok .fecSize ∧ decode 0x00000004 = .ok .escEscape ∧ decode 0x00000011 = .ok .txPump ∧
    decode 0x00002813 = .ok (.tone 40) ∧ decode 0x00000020 = .ok .orbFlush ∧ decode 0x0000007F = .ok .reset ∧
    decode 0x00000000 = .error (.reservedOpcode 0x00) ∧ decode 0x000000FF = .error (.reservedOpcode 0xFF) ∧
    decode 0x0000017F = .error (.nonZeroImmediate 0x7F 1)

/-- A request and its packed 64-bit word give each other, the fields stand where format P puts them, and exactly the
words with a bit of 59:56 set are no request (30_encoding.md section 1). -/
def Obligations.RequestPackingRoundTrips : Prop :=
  (∀ q : Request, unpackRequest (packRequest q) = some q) ∧
  (∀ (r : BitVec 64) (q : Request), unpackRequest r = some q →
    packRequest q = r ∧ q.we = r.getLsbD 63 ∧ q.space.toNat = r.toNat / 2 ^ 60 % 8 ∧
      q.offset.toNat = r.toNat / 2 ^ 32 % 2 ^ 24 ∧ q.wdata.toNat = r.toNat % 2 ^ 32) ∧
  (∀ r : BitVec 64, unpackRequest r = none ↔ r.toNat / 2 ^ 56 % 16 ≠ 0)

/-! ## Steps and the port -/

/-- A step whose next request writes to CMD a word that decodes to a well-formed command is that command's meaning,
at the state with CMD written, the request taken off the list and the port's answer `OK(0)` given (44_system.md
section 1). -/
def Obligations.StepRunsTheDecodedCommand : Prop :=
  ∀ (s : State) (w : Word) (later : List Input) (i : Instr),
    s.inputs = .request (packRequest (cmdRequest w)) :: later → decode w = .ok i → i.wellFormed = true →
    step s = exec i { s with inputs := later, cmd := w, responses := s.responses ++ [.ok 0] }

/-- R97: an illegal word is a fatal error with the word as its detail and nothing else changes; with FAULT already 1
it is refused like any other command. -/
def Obligations.IllegalWordFaults : Prop :=
  ∀ (s : State) (w : Word) (later : List Input) (e : DecodeError),
    s.inputs = .request (packRequest (cmdRequest w)) :: later → decode w = .error e →
    (s.status.fault = false →
      step s = .next { s with
        inputs := later, cmd := w, responses := s.responses ++ [.ok 0]
        status := statusFaulted .illegalCmd s.status, errinfo := w }) ∧
    (s.status.fault = true →
      step s = .next { s with
        inputs := later, cmd := w, responses := s.responses ++ [.ok 0]
        status := statusAfter .error .faulted s.status, errinfo := 0 })

/-- While FAULT = 1 a CMD write of any word but RESET's ends with EC_FAULTED, undecoded, and changes nothing else
(60_exceptions.md section 3). -/
def Obligations.FaultedBlockRefusesCommands : Prop :=
  ∀ (s : State) (w : Word) (later : List Input),
    s.inputs = .request (packRequest (cmdRequest w)) :: later → s.status.fault = true → w ≠ 0x0000007F →
    step s = .next { s with
      inputs := later, cmd := w, responses := s.responses ++ [.ok 0]
      status := statusAfter .error .faulted s.status, errinfo := 0 }

/-- R65 to R68: the port answers `ERR`, and then nothing changes, exactly to the unmapped and misaligned requests,
the illegal writes and the writes the session protects from (and to a packed word that is no request); every other
request is answered `OK`. -/
def Obligations.PortRefusesExactly : Prop :=
  ∀ (s : State) (r : BitVec 64) (later : List Input), s.inputs = .request r :: later →
    ((unpackRequest r = none ∨ ∃ q, unpackRequest r = some q ∧ portRefusal q s) →
      step s = .next { s with inputs := later, responses := s.responses ++ [.err] }) ∧
    (∀ q, unpackRequest r = some q → ¬ portRefusal q s →
      (isCmdWrite q = false → ∃ t, step s = .next t) ∧
      (∀ t, step s = .next t → ∃ v, t.responses = s.responses ++ [.ok v]))

/-- A read that is not refused changes nothing and answers the register at its offset, or the byte at its offset,
zero-extended, where it lies within the memory's valid length (20_memory.md sections 1 and 3). Beyond the valid
length the byte is unspecified, log 7. That a byte of SRC is unspecified from a RESET until it is next written, and
else the byte last written, is the model's reading, log 9: the clause for SRC speaks of `byteAt`, which says so. -/
def Obligations.ReadsAnswerTheLocation : Prop :=
  ∀ (s : State) (r : BitVec 64) (later : List Input) (q : Request),
    s.inputs = .request r :: later → unpackRequest r = some q → q.we = false → ¬ portRefusal q s →
    ∃ v, step s = .next { s with inputs := later, responses := s.responses ++ [.ok v] } ∧
      (q.space = 0 → (registerFile s)[q.offset.toNat / 4]? = some v) ∧
      (∀ b, q.space = codeOfSpace (.mem b) →
        v.toNat < 256 ∧
        (q.offset.toNat < validLength b s → v.toNat = (byteAt b q.offset.toNat s).toNat))

/-- A read of STATUS changes nothing and answers the word whose fields stand where the register's table puts them,
each with the number its table gives: CODE, CAUSE, TRANSMITTING, FAULT, CANCELLING, MSTATE and FCAUSE, and 0 in the
reserved bits (10_state.md section 2, 60_exceptions.md section 2). -/
def Obligations.StatusReadGivesItsFields : Prop :=
  ∀ (s : State) (later : List Input), s.inputs = .request 0x0000000800000000 :: later →
    let codeNumber : BitVec 4 :=
      match s.status.code with
      | .ok => 0
      | .inProgress => 1
      | .complete => 2
      | .busy => 3
      | .error => 4
      | .cancelled => 5
    let causeNumber : Cause → BitVec 4 := fun c =>
      match c with
      | .none => 0
      | .validation => 1
      | .resource => 2
      | .algorithmic => 3
      | .noSession => 4
      | .unescapedSync => 5
      | .orbOverflow => 6
      | .badState => 7
      | .illegalCmd => 8
      | .faulted => 9
    let stateNumber : BitVec 4 :=
      match s.status.mstate with
      | .idle => 0
      | .leader => 1
      | .sync0 => 2
      | .sync1 => 3
      | .data => 4
      | .trailer => 5
      | .flushTone => 6
      | .drain => 7
      | .finish => 8
    ∃ w : Word, step s = .next { s with inputs := later, responses := s.responses ++ [.ok w] } ∧
      w.extractLsb' 0 4 = codeNumber ∧ w.extractLsb' 4 4 = causeNumber s.status.cause ∧
      w.getLsbD 8 = s.status.transmitting ∧ w.getLsbD 9 = s.status.fault ∧ w.getLsbD 10 = s.status.cancelling ∧
      w.getLsbD 11 = false ∧ w.extractLsb' 12 4 = stateNumber ∧ w.extractLsb' 16 4 = causeNumber s.status.fcause ∧
      w.extractLsb' 20 12 = 0

/-- A write that is not refused to ARG0, CFG or SRC_LEN stores the whole word and does nothing else (20_memory.md
sections 1 and 3). -/
def Obligations.RegisterWritesStoreTheWord : Prop :=
  ∀ (s : State) (r : BitVec 64) (later : List Input) (q : Request),
    s.inputs = .request r :: later → unpackRequest r = some q → q.we = true → q.space = 0 → ¬ portRefusal q s →
    (q.offset.toNat = 0x10 →
      step s = .next { s with inputs := later, responses := s.responses ++ [.ok 0], arg0 := q.wdata }) ∧
    (q.offset.toNat = 0x18 →
      step s = .next { s with inputs := later, responses := s.responses ++ [.ok 0], cfg := q.wdata }) ∧
    (q.offset.toNat = 0x1C →
      step s = .next { s with inputs := later, responses := s.responses ++ [.ok 0], srcLen := q.wdata })

/-- A write to SRC that is not refused stores its byte, which reads back; every other byte and every other field is
as before (20_memory.md sections 1 and 4). -/
def Obligations.SrcWriteReadsBack : Prop :=
  ∀ (s : State) (r : BitVec 64) (later : List Input) (q : Request),
    s.inputs = .request r :: later → unpackRequest r = some q → q.we = true → q.space = 1 → ¬ portRefusal q s →
    s.src.wf →
    ∃ t, step s = .next t ∧
      t = { s with
        inputs := later, responses := s.responses ++ [.ok 0], src := t.src
        srcStale := s.srcStale.filter (fun a => decide (a ≠ q.offset.toNat)) } ∧
      (byteAt .src q.offset.toNat t).toNat = q.wdata.toNat ∧
      (∀ a, a ≠ q.offset.toNat → byteAt .src a t = byteAt .src a s)

/-- R25: a port request that is no CMD write leaves STATUS and ERRINFO unchanged, and each command overwrites CODE,
CAUSE and ERRINFO: its outcome does not depend on what they were. -/
def Obligations.StatusDescribesTheLastCommand : Prop :=
  ∀ (s : State) (r : BitVec 64) (later : List Input), s.inputs = .request r :: later →
    ((∀ q, unpackRequest r = some q → isCmdWrite q = false) → ∀ t, step s = .next t →
      t.status = s.status ∧ t.errinfo = s.errinfo) ∧
    (∀ q, unpackRequest r = some q → isCmdWrite q = true → ∀ (code : Code) (cause : Cause) (info : Word),
      step { s with status := statusAfter code cause s.status, errinfo := info } = step s)

/-! ## Reset -/

/-- R223: RESET runs in every state, FAULT = 1 and a session included; it puts every register to its reset value but
CMD, which keeps the word, keeps the memories and PAR, and tells the sink nothing. Every byte of SRC written so far
is then unspecified to its readers, until it is written again (log 9 says how). Apart from CMD, the memories and
PAR, the state after it is the state after power-on reset. -/
def Obligations.ResetCommandRestoresTheRegisters : Prop :=
  decode 0x0000007F = .ok .reset ∧ ∀ s : State,
    (exec .reset s = .next { s with
      status := {
        code := .ok, cause := .none, transmitting := false, fault := false, cancelling := false, mstate := .idle
        fcause := .none }
      errinfo := 0, arg0 := 0, res0 := 0, cfg := if s.params.dataMsbReset then 1 else 0
      srcLen := 0, codLen := 0, txbLen := 0, sesLen := 0, cursor := 0, orbSize := 0, phase := 0
      srcStale := s.src.map (fun c => c.1) }) ∧
    (∀ t u, exec .reset s = .next t → step { s with inputs := .rst :: s.inputs } = .next u →
      u = { t with
        cmd := u.cmd, src := u.src, cod := u.cod, txb := u.txb, orb := u.orb, par := u.par
        srcStale := u.srcStale, powerOns := u.powerOns })

/-- Asserting `rst` puts every register to its power-on value and leaves every byte of the memories at an
unspecified power-on value of its own; the sink's log, its answers and the host's pending events are untouched
(70_reset_and_hazards.md section 1). That PAR is left 0 is the model's choice (log 8). -/
def Obligations.PowerOnResetRestoresTheRegisters : Prop :=
  ∀ (s : State) (later : List Input), s.inputs = .rst :: later →
    ∃ t, step s = .next t ∧
      t = { s with
        inputs := later, cmd := 0
        status := {
          code := .ok, cause := .none, transmitting := false, fault := false, cancelling := false, mstate := .idle
          fcause := .none }
        errinfo := 0, arg0 := 0, res0 := 0, cfg := if s.params.dataMsbReset then 1 else 0
        srcLen := 0, codLen := 0, txbLen := 0, sesLen := 0, cursor := 0, orbSize := 0, phase := 0
        par := Vector.replicate 32 0, src := [], srcStale := [], cod := [], txb := [], orb := []
        powerOns := s.powerOns + 1 } ∧
      (∀ b a, byteAt b a t = Config.powerOnByte (s.powerOns + 1) b a)

/-- After power-on reset the fourteen registers read as the reset table says, with the default configuration
(10_state.md section 7, 95_test_vectors.md V-SYS-1). That the reset state has the default configuration is the
model's choice (log 2). -/
def Obligations.ResetStateReadsAsTheTable : Prop :=
  registerFile State.reset = 0x53475458 :: List.replicate 13 0

/-- The invariant holds at the reset state (10_state.md section 8). The invariant asks for a configuration of this
hardware, and that the reset state has the default one is the model's choice (log 2). -/
def Obligations.ResetStateHasTheInvariant : Prop :=
  Inv State.reset

/-! ## Whole-machine rules -/

/-- The invariant of 10_state.md section 8 is kept by every step, from every state that has it. -/
def Obligations.StepKeepsTheInvariant : Prop :=
  ∀ s t : State, Inv s → step s = .next t → Inv t

/-- No step from a state with the invariant stops: every port request is answered, a pump always ends (20_memory.md
section 1, 42_modulator.md section 3). -/
def Obligations.StepNeverStops : Prop :=
  ∀ s : State, Inv s → ∃ t, step s = .next t

/-- The errors the spec calls unreachable are never reported: no command ends with EC_RESOURCE, EC_ALGORITHMIC or
EC_UNESCAPED_SYNC, and only TONE can end with EC_ORB_OVERFLOW (60_exceptions.md section 2, 42_modulator.md section
4, 40_fec.md section 3). -/
def Obligations.UnreachableErrorsAreNeverReported : Prop :=
  ∀ (i : Instr) (s t : State), Inv s → exec i s = .next t →
    t.status.cause ≠ .resource ∧ t.status.cause ≠ .algorithmic ∧ t.status.cause ≠ .unescapedSync ∧
      (t.status.cause = .orbOverflow → ∃ n, i = .tone n)

/-- Inside a command MSTATE moves only along the arrows that the sequencer's table gives that command: only TX_START
enters M_LEADER, only TX_PUMP and TX_CANCEL move on from there, never back, and the trailer leads to the flush tone
exactly in a cancelled session (42_modulator.md section 3). -/
def Obligations.SequencerFollowsItsTable : Prop :=
  ∀ (i : Instr) (s t : State), Inv s → i ≠ .reset → exec i s = .next t →
    Relation.ReflTransGen (fun a b => arrow i s.status.cancelling a b = true) s.status.mstate t.status.mstate

/-- Every hand-off of a step has between ORB_MIN and ORB_MAX bytes, and the log of hand-offs only grows, at any
reset too (43_ring_buffer.md sections 2 and 4). -/
def Obligations.HandoffsHaveLegalSizes : Prop :=
  ∀ s t : State, Inv s → step s = .next t →
    ∃ blocks, t.sinkLog = s.sinkLog ++ blocks ∧
      ∀ b ∈ blocks, s.params.orbMin ≤ b.length ∧ b.length ≤ s.params.orbMax

/-- The stream of samples, those handed off and then those pending, only grows: after every command but RESET the
stream before is a prefix of the stream after (20_memory.md section 4). What a command appends the statements about
that command say. -/
def Obligations.StreamOnlyGrows : Prop :=
  ∀ (i : Instr) (s t : State), Inv s → i ≠ .reset → exec i s = .next t → stream s <+: stream t

/-- R225: a step that polls the sink or hands anything to it runs TX_PUMP, TX_CANCEL, TONE or ORB_FLUSH. -/
def Obligations.OnlyFourCommandsReachTheSink : Prop :=
  ∀ s t : State, step s = .next t →
    t.polls ≠ s.polls ∨ t.sinkAnswers ≠ s.sinkAnswers ∨ t.sinkLog ≠ s.sinkLog →
    ∃ (w : Word) (later : List Input) (i : Instr),
      s.inputs = .request (packRequest (cmdRequest w)) :: later ∧ decode w = .ok i ∧
        (i = .txPump ∨ i = .txCancel ∨ (∃ n, i = .tone n) ∨ i = .orbFlush)

/-- A step changes RES0 only where it serves an FEC_SIZE, FEC_ENCODE, ESC_COUNT or ESC_ESCAPE that ends with ST_OK,
a RESET, or `rst`; RESET clears it (10_state.md section 2). -/
def Obligations.OnlyFourCommandsWriteTheResult : Prop :=
  (∀ s t : State, step s = .next t → t.res0 ≠ s.res0 →
    (∃ later, s.inputs = .rst :: later) ∨
    ∃ (w : Word) (later : List Input) (i : Instr),
      s.inputs = .request (packRequest (cmdRequest w)) :: later ∧ decode w = .ok i ∧
        (i = .reset ∨
          ((i = .fecSize ∨ i = .fecEncode ∨ i = .escCount ∨ i = .escEscape) ∧ t.status.code = .ok))) ∧
  (∀ s t : State, exec .reset s = .next t → t.res0 = 0)

/-- How every command but RESET reports: CAUSE and ERRINFO are 0 unless CODE is ST_ERROR; FAULT is set by the fatal
causes and by them only, FCAUSE then being the cause; while FAULT = 1 both stay and the cause is EC_FAULTED
(44_system.md section 1, 60_exceptions.md sections 2 and 3). -/
def Obligations.CommandsReportByFinishOrFault : Prop :=
  ∀ (i : Instr) (s t : State), i ≠ .reset → exec i s = .next t →
    (t.status.code ≠ .error → t.status.cause = .none ∧ t.errinfo = 0) ∧
    (t.status.code = .error → t.status.cause ≠ .none) ∧
    (s.status.fault = true →
      t.status.code = .error ∧ t.status.cause = .faulted ∧ t.status.fault = true ∧ t.status.fcause = s.status.fcause) ∧
    (s.status.fault = false →
      (t.status.fault = true ↔ t.status.code = .error ∧ fatalCause t.status.cause = true) ∧
      (t.status.fault = true → t.status.fcause = t.status.cause) ∧
      (t.status.fault = false → t.status.fcause = s.status.fcause))

/-- While a session goes on, no step changes the pipeline's buffers, their lengths, CFG or SES_LEN: the bytes a
session sends are TXB as it stood at TX_START (20_memory.md sections 2 and 4, 10_state.md section 8). -/
def Obligations.SessionDataIsFrozen : Prop :=
  ∀ s t : State, step s = .next t → s.status.transmitting = true → t.status.transmitting = true →
    t.src = s.src ∧ t.srcStale = s.srcStale ∧ t.cod = s.cod ∧ t.txb = s.txb ∧ t.srcLen = s.srcLen ∧ t.codLen = s.codLen ∧
      t.txbLen = s.txbLen ∧ t.cfg = s.cfg ∧ t.sesLen = s.sesLen

/-- No step changes the configuration (10_state.md section 6). -/
def Obligations.ConfigurationNeverChanges : Prop :=
  ∀ s t : State, step s = .next t → t.params = s.params

/-! ## FEC -/

/-- R118, R121: FEC_SIZE computes ceil(d / 223) × 255 of ARG0, which both branches of the source's formula give, and
errs where it does not fit 32 bits; nothing but RES0, STATUS and ERRINFO changes. With FAULT = 1 it is refused with
EC_FAULTED; its word is the opcode map's. -/
def Obligations.FecSizeComputesTheEncodedSize : Prop :=
  decode 0x00000001 = .ok .fecSize ∧ ∀ s : State,
    refusedWhileFaulted .fecSize s ∧
    (s.status.fault = false →
      (s.arg0.toNat ≤ 3755991007 →
        ∃ t, exec .fecSize s = .next t ∧
          t = { s with res0 := t.res0, status := statusAfter .ok .none s.status, errinfo := 0 } ∧
          t.res0.toNat = (s.arg0.toNat + 222) / 223 * 255 ∧
          (s.arg0.toNat % 223 ≠ 0 → t.res0.toNat = (s.arg0.toNat / 223 + 1) * 255) ∧
          (s.arg0.toNat % 223 = 0 → t.res0.toNat = s.arg0.toNat + s.arg0.toNat / 223 * 32)) ∧
      (3755991007 < s.arg0.toNat →
        exec .fecSize s = .next { s with status := statusAfter .error .validation s.status, errinfo := 0 }))

/-- R122: FEC_ENCODE writes one codeword per chunk of SRC[0..SRC_LEN) to COD, one after the other, and leaves the
bytes of COD after them, and every field but COD, COD_LEN, RES0, PAR, STATUS and ERRINFO, as they were; during a
session it faults, and an empty input is an error. With FAULT = 1 it is refused with EC_FAULTED; its word is the
opcode map's. (A SRC_LEN within SRC_MAX fits the 24 bits asked for.) -/
def Obligations.FecEncodeWritesTheCodewords : Prop :=
  decode 0x00000002 = .ok .fecEncode ∧ ∀ s : State,
    refusedWhileFaulted .fecEncode s ∧
    (s.status.fault = false →
      (s.status.transmitting = true →
        exec .fecEncode s = .next { s with status := statusFaulted .badState s.status, errinfo := 0 }) ∧
      (s.status.transmitting = false → s.srcLen = 0 →
        exec .fecEncode s = .next { s with status := statusAfter .error .validation s.status, errinfo := 0 }) ∧
      (s.status.transmitting = false → s.srcLen ≠ 0 → s.srcLen.toNat < 2 ^ 24 →
        ∃ t, exec .fecEncode s = .next t ∧
          t = { s with
            cod := t.cod, codLen := t.codLen, res0 := t.res0, par := t.par
            status := statusAfter .ok .none s.status, errinfo := 0 } ∧
          t.codLen.toNat = (s.srcLen.toNat + 222) / 223 * 255 ∧ t.res0 = t.codLen ∧
          (∀ c, c < (s.srcLen.toNat + 222) / 223 →
            bytesAt .cod (255 * c) 255 t =
              encodeBlock s.params.rsPrim
                (bytesAt .src (223 * c) (min (223 * c + 223) s.srcLen.toNat - 223 * c) s)) ∧
          (∀ a, (s.srcLen.toNat + 222) / 223 * 255 ≤ a → byteAt .cod a t = byteAt .cod a s)))

/-- A codeword is 255 bytes: the chunk, zero bytes up to 223, and 32 parity bytes, the remainder register read from
PAR[31] down to PAR[0] (40_fec.md section 3, 90_conflicts.md C1). -/
def Obligations.CodewordIsSystematic : Prop :=
  ∀ (prim : BitVec 9) (chunk : List Byte), 1 ≤ chunk.length → chunk.length ≤ 223 →
    (encodeBlock prim chunk).length = 255 ∧
    (encodeBlock prim chunk).take chunk.length = chunk ∧
    (∀ i, chunk.length ≤ i → i < 223 → (encodeBlock prim chunk)[i]? = some 0) ∧
    (∀ j, j < 32 → (encodeBlock prim chunk)[223 + j]? = (parAfter prim (paddedMessage chunk))[31 - j]?)

/-- Every codeword is a multiple of the generator polynomial: it is 0 at α^1 to α^32, the check a conformant decoder
makes (40_fec.md section 3), for every field polynomial of degree 8. -/
def Obligations.CodewordHasTheGeneratorRoots : Prop :=
  ∀ (prim : BitVec 9) (chunk : List Byte) (j : Nat), prim.getLsbD 8 = true → chunk.length ≤ 223 → 1 ≤ j → j ≤ 32 →
    evalHighFirst prim (encodeBlock prim chunk) (alphaPow prim j) = 0

/-- R124: the block encoder is linear, zero bytes encode to zero bytes, and the unit message in the last position
has the generator's coefficients as its parity. -/
def Obligations.BlockEncodingIsLinear : Prop :=
  ∀ prim : BitVec 9,
    (∀ a b : List Byte, a.length = b.length → a.length ≤ 223 →
      encodeBlock prim (List.zipWith (fun x y => x ^^^ y) a b) =
        List.zipWith (fun x y => x ^^^ y) (encodeBlock prim a) (encodeBlock prim b)) ∧
    (∀ n, n ≤ 223 → encodeBlock prim (List.replicate n 0) = List.replicate 255 0) ∧
    (encodeBlock prim (List.replicate 222 0 ++ [1])).drop 223 = ((generator prim).take 32).reverse

/-- Field multiplication is commutative, associative, distributes over ⊕ and has the zero and the one, for every
field polynomial of degree 8 (40_fec.md section 1). -/
def Obligations.FieldMultiplicationLaws : Prop :=
  ∀ prim : BitVec 9, prim.getLsbD 8 = true → ∀ a b c : Byte,
    gfMul prim a b = gfMul prim b a ∧
    gfMul prim (gfMul prim a b) c = gfMul prim a (gfMul prim b c) ∧
    gfMul prim a (b ^^^ c) = gfMul prim a b ^^^ gfMul prim a c ∧
    gfMul prim a 0 = 0 ∧ gfMul prim a 1 = a

/-! ## The escaper -/

/-- R144: ESC_COUNT counts the positions of COD[0..COD_LEN) that hold 0x54 or 0xAB; nothing but RES0, STATUS and
ERRINFO changes; an empty buffer and a session in progress are no errors. With FAULT = 1 it is refused with
EC_FAULTED; its word is the opcode map's. -/
def Obligations.EscCountCountsReservedBytes : Prop :=
  decode 0x00000003 = .ok .escCount ∧ ∀ s : State,
    refusedWhileFaulted .escCount s ∧
    (s.status.fault = false →
      ∃ t, exec .escCount s = .next t ∧
        t = { s with res0 := t.res0, status := statusAfter .ok .none s.status, errinfo := 0 } ∧
        t.res0.toNat =
          ((List.range s.codLen.toNat).filter
            (fun i => decide (byteAt .cod i s = 0x54 ∨ byteAt .cod i s = 0xAB))).length)

/-- R145: ESC_ESCAPE writes the escaped stream of COD[0..COD_LEN) to TXB and its length to TXB_LEN and RES0, and
leaves the bytes of TXB after it and every other field as they were; during a session it faults, and an empty input
is an error. With FAULT = 1 it is refused with EC_FAULTED; its word is the opcode map's. (A COD_LEN within COD_MAX
fits the 24 bits asked for.) -/
def Obligations.EscEscapeWritesTheEscapedStream : Prop :=
  decode 0x00000004 = .ok .escEscape ∧ ∀ s : State,
    refusedWhileFaulted .escEscape s ∧
    (s.status.fault = false →
      (s.status.transmitting = true →
        exec .escEscape s = .next { s with status := statusFaulted .badState s.status, errinfo := 0 }) ∧
      (s.status.transmitting = false → s.codLen = 0 →
        exec .escEscape s = .next { s with status := statusAfter .error .validation s.status, errinfo := 0 }) ∧
      (s.status.transmitting = false → s.codLen ≠ 0 → s.codLen.toNat < 2 ^ 24 →
        ∃ t, exec .escEscape s = .next t ∧
          t = { s with
            txb := t.txb, txbLen := t.txbLen, res0 := t.res0
            status := statusAfter .ok .none s.status, errinfo := 0 } ∧
          t.txbLen.toNat = (escape (bytesAt .cod 0 s.codLen.toNat s)).length ∧ t.res0 = t.txbLen ∧
          bytesAt .txb 0 t.txbLen.toNat t = escape (bytesAt .cod 0 s.codLen.toNat s) ∧
          (∀ a, t.txbLen.toNat ≤ a → byteAt .txb a t = byteAt .txb a s)))

/-- R143: the laws of the escape mapping: its length, no sync byte in its output, escape bytes pair up, its bounds,
its left inverse, and concatenation. -/
def Obligations.EscapeMappingLaws : Prop :=
  (∀ bs : List Byte, (escape bs).length = bs.length + countReserved bs) ∧
  (∀ bs : List Byte, (0xAB : Byte) ∉ escape bs) ∧
  (∀ bs : List Byte, escapesPairUp (escape bs) = true) ∧
  (∀ bs : List Byte, bs.length ≤ (escape bs).length ∧ (escape bs).length ≤ 2 * bs.length ∧
    ((escape bs).length = bs.length ↔ ∀ b ∈ bs, b ≠ 0x54 ∧ b ≠ 0xAB) ∧
    ((∀ b ∈ bs, b ≠ 0x54 ∧ b ≠ 0xAB) → escape bs = bs)) ∧
  (∀ bs : List Byte, unescape (escape bs) = some bs) ∧
  (∀ bs cs : List Byte, escape bs = escape cs → bs = cs) ∧
  (∀ bs cs : List Byte, escape (bs ++ cs) = escape bs ++ escape cs)

/-! ## The modulator -/

/-- R159, R160: `Synth(w, n)` gives n samples, sample i the ROM's entry at the top bits of the phase advanced i
times, and leaves the phase advanced n times; the zero-frequency tone gives n zero samples and clears the phase. -/
def Obligations.SynthReadsTheRomAtTheRunningPhase : Prop :=
  ∀ (p : Params) (n : Nat) (phase : Word),
    (∀ (w : Word) (k : Nat), w ≠ 0 → p.sinLen = 2 ^ k → 1 ≤ k → k ≤ 16 →
      (synth p w n phase).1.length = n ∧
      (∀ i, i < n →
        (synth p w n phase).1[i]? =
          some (p.sine.getD ((phase.toNat + i * w.toNat) % 2 ^ 32 / 2 ^ (32 - k)) 0)) ∧
      (synth p w n phase).2.toNat = (phase.toNat + n * w.toNat) % 2 ^ 32) ∧
    synth p 0 n phase = (List.replicate n 0, 0)

/-- Consecutive tones of one tuning word splice: m + n samples are m samples and then n more from the phase they
left (42_modulator.md section 1). -/
def Obligations.TonesSplice : Prop :=
  ∀ (p : Params) (w : Word) (m n : Nat) (phase : Word),
    synth p w (m + n) phase =
      ((synth p w m phase).1 ++ (synth p w n (synth p w m phase).2).1, (synth p w n (synth p w m phase).2).2)

/-- R165, R166: a frame is four start bits, the eight data bits in their order, four stop bits, each a tone of
NS_BIT samples with the phase running through them; the start bits are one tone of 4 × NS_BIT samples, and likewise
the stop bits; CFG.INVERT_SS swaps start and stop and never the data. -/
def Obligations.FrameLayout : Prop :=
  ∀ (p : Params) (cfg : Word) (b : Byte) (msb : Bool) (phase : Word),
    let tone := fun bit : Bool => if bit then p.ftwMark else p.ftwSpace
    let inverted := cfg.getLsbD 1
    let order := if msb then [7, 6, 5, 4, 3, 2, 1, 0] else [0, 1, 2, 3, 4, 5, 6, 7]
    let start := synth p (tone inverted) (4 * p.nsBit) phase
    let data := makeUnits (order.map (fun i => synth p (tone (b.getLsbD i)) p.nsBit)) start.2
    let stop := synth p (tone (!inverted)) (4 * p.nsBit) data.2
    let sixteen := makeUnits
      ((List.replicate 4 inverted ++ order.map (fun i => b.getLsbD i) ++ List.replicate 4 (!inverted)).map
        (fun bit => synth p (tone bit) p.nsBit)) phase
    frameSamples p cfg b msb phase = (start.1 ++ data.1.flatten ++ stop.1, stop.2) ∧
      frameSamples p cfg b msb phase = (sixteen.1.flatten, sixteen.2) ∧
      (frameSamples p cfg b msb phase).1.length = 16 * p.nsBit

/-- The units of a session: the leader and the trailer are mark tones of LEADER_BITS and TRAILER_BITS bit times, a
sync frame is the frame of 0xAB with bit 7 first whatever CFG.MSB_FIRST says, a data frame has the bit order of
CFG.MSB_FIRST (bit 0), and the flush tone is FLUSH_NS zero samples and clears PHASE (42_modulator.md section 2). -/
def Obligations.UnitsOfASession : Prop :=
  ∀ (p : Params) (cfg : Word) (b : Byte) (phase : Word),
    leaderTone p phase = synth p p.ftwMark (p.leaderBits * p.nsBit) phase ∧
    syncFrame p cfg phase = frameSamples p cfg 0xAB true phase ∧
    dataFrame p cfg b phase = frameSamples p cfg b (cfg.getLsbD 0) phase ∧
    trailerTone p phase = synth p p.ftwMark (p.trailerBits * p.nsBit) phase ∧
    Sys2Proof.Machine.flushTone p phase = (List.replicate p.flushNs 0, 0)

/-- R176: TX_START opens a session over TXB[0..TXB_LEN) and changes nothing else; during a session it faults, and
with nothing to send it is an error. With FAULT = 1 it is refused with EC_FAULTED; its word is the opcode map's. -/
def Obligations.TxStartOpensTheSession : Prop :=
  decode 0x00000010 = .ok .txStart ∧ ∀ s : State,
    refusedWhileFaulted .txStart s ∧
    (s.status.fault = false →
      (s.status.transmitting = true →
        exec .txStart s = .next { s with status := statusFaulted .badState s.status, errinfo := 0 }) ∧
      (s.status.transmitting = false → s.txbLen = 0 →
        exec .txStart s = .next { s with status := statusAfter .error .validation s.status, errinfo := 0 }) ∧
      (s.status.transmitting = false → s.txbLen ≠ 0 →
        exec .txStart s = .next { s with
          sesLen := s.txbLen, cursor := 0, errinfo := 0
          status := { s.status with
            code := .ok, cause := .none, transmitting := true, cancelling := false, mstate := .leader } }))

/-- TX_PUMP without a session faults with EC_NO_SESSION; TX_CANCEL without one is a plain error; nothing else
changes (42_modulator.md section 4). -/
def Obligations.PumpAndCancelNeedASession : Prop :=
  ∀ s : State, s.status.fault = false → s.status.transmitting = false →
    exec .txPump s = .next { s with status := statusFaulted .noSession s.status, errinfo := 0 } ∧
    exec .txCancel s = .next { s with status := statusAfter .error .validation s.status, errinfo := 0 }

/-- With a session, TX_PUMP and TX_CANCEL always come to an end, whatever the sink answers, with a code other than
ST_OK, and change no field but those of the session, the ring buffer, PHASE, STATUS, ERRINFO and the sink, and no
byte of ORB past both its threshold and its size (42_modulator.md sections 3 and 4). A pump reports ST_CANCELLED
only for a session being cancelled. -/
def Obligations.PumpAndCancelAlwaysEnd : Prop :=
  ∀ s : State, s.status.fault = false → s.status.transmitting = true → s.status.mstate ≠ .idle →
    let reach := [(0, max s.params.orbMin s.params.orbMax)]
    (∃ t, exec .txPump s = .next t ∧ pumpFrame s t ∧ orbFrame reach s t ∧ t.status.code ≠ .ok ∧
      (t.status.code = .cancelled → s.status.cancelling = true)) ∧
    (∃ t, exec .txCancel s = .next t ∧ pumpFrame s t ∧ orbFrame reach s t ∧ t.status.code ≠ .ok)

/-- The first pump of a session, with a ready sink, sends the leader, the two sync frames and up to 128 data frames
(42_modulator.md section 4). -/
def Obligations.FirstPumpSendsPreambleAndData : Prop :=
  ∀ (s : State) (later : List Bool), Inv s → s.status.fault = false → s.status.mstate = .leader →
    let m := min 128 s.sesLen.toNat
    let units := makeUnits
      ([leaderTone s.params, syncFrame s.params s.cfg, syncFrame s.params s.cfg] ++
        dataUnits s.params s.cfg ((sessionBytes s).take m)) s.phase
    readyFor (3 + m) later s →
    ∃ t, exec .txPump s = .next t ∧ pumpFrame s t ∧
      t.status = { s.status with code := .inProgress, cause := .none, mstate := .data } ∧ t.errinfo = 0 ∧
      t.sesLen = s.sesLen ∧ t.cursor.toNat = m ∧ t.sinkAnswers = later ∧ t.polls = s.polls + 3 + m ∧
      t.sinkLog = s.sinkLog ++ (cutHandoffs s.params.orbMin (pendingSamples s) units.1).1 ∧
      pendingSamples t = (cutHandoffs s.params.orbMin (pendingSamples s) units.1).2 ∧
      t.phase = units.2 ∧ orbFrame (unitRuns s.params.orbMin s.orbSize.toNat units.1) s t

/-- A middle pump, with a ready sink, sends the next min(128, SES_LEN − CURSOR) data frames and reports
ST_IN_PROGRESS (42_modulator.md section 4). -/
def Obligations.MiddlePumpSendsData : Prop :=
  ∀ (s : State) (later : List Bool), Inv s → s.status.fault = false → s.status.mstate = .data → s.cursor ≠ s.sesLen →
    let m := min 128 (s.sesLen.toNat - s.cursor.toNat)
    let units := makeUnits
      (dataUnits s.params s.cfg (((sessionBytes s).drop s.cursor.toNat).take m)) s.phase
    readyFor m later s →
    ∃ t, exec .txPump s = .next t ∧ pumpFrame s t ∧
      t.status = { s.status with code := .inProgress, cause := .none } ∧ t.errinfo = 0 ∧
      t.sesLen = s.sesLen ∧ t.cursor.toNat = s.cursor.toNat + m ∧ t.sinkAnswers = later ∧ t.polls = s.polls + m ∧
      t.sinkLog = s.sinkLog ++ (cutHandoffs s.params.orbMin (pendingSamples s) units.1).1 ∧
      pendingSamples t = (cutHandoffs s.params.orbMin (pendingSamples s) units.1).2 ∧
      t.phase = units.2 ∧ orbFrame (unitRuns s.params.orbMin s.orbSize.toNat units.1) s t

/-- A pump that finds all data sent, or the closing sequence under way at any of its states, ends the session with a
ready sink: it sends what is still to come of the trailer and, in a cancelled session, of the flush tone, flushes
what is pending, and reports ST_COMPLETE, or ST_CANCELLED where the session is cancelled; only the flush tone clears
PHASE (42_modulator.md section 4). -/
def Obligations.LastPumpCompletesTheSession : Prop :=
  ∀ (s : State) (later : List Bool), Inv s → s.status.fault = false →
    closing s.status.mstate = true ∨ (s.status.mstate = .data ∧ s.cursor = s.sesLen) →
    let units := makeUnits (closingUnits s.params s.status.cancelling s.status.mstate) s.phase
    let cut := cutHandoffs s.params.orbMin (pendingSamples s) units.1
    let count := units.1.length + if cut.2 = [] then 1 else 2
    readyFor count later s →
    ∃ t, exec .txPump s = .next t ∧ pumpFrame s t ∧
      t.status = { s.status with
        code := if s.status.cancelling then .cancelled else .complete
        cause := .none, transmitting := false, cancelling := false, mstate := .idle } ∧
      t.errinfo = 0 ∧ t.sesLen = 0 ∧ t.cursor = 0 ∧ t.orbSize = 0 ∧ t.phase = units.2 ∧
      t.sinkAnswers = later ∧ t.polls = s.polls + count ∧
      t.sinkLog = s.sinkLog ++ cut.1 ++ flushBlock s.params.orbMin cut.2 ∧
      orbFrame
        (unitRuns s.params.orbMin s.orbSize.toNat units.1 ++ paddingRuns s.params.orbMin cut.2.length) s t

/-- A pump whose first poll finds the sink busy keeps its position, in every state of a session: only the status,
and that a poll was made, change, and MSTATE stands where that poll was made: at M_TRAILER where all data was sent,
at M_FINISH where the final flush had nothing to do (42_modulator.md section 3). -/
def Obligations.BusyPumpKeepsItsPosition : Prop :=
  ∀ (s : State) (later : List Bool), s.status.fault = false → s.status.transmitting = true → s.status.mstate ≠ .idle →
    s.sinkAnswers = false :: later →
    exec .txPump s = .next { s with
      sinkAnswers := later, polls := s.polls + 1, errinfo := 0
      status := { s.status with
        code := .busy, cause := .none
        mstate :=
          if s.status.mstate = .data ∧ s.cursor = s.sesLen then .trailer else pollingPlace s.status.mstate s } }

/-- A pump consumes at most 128 bytes, and CURSOR never falls while the session lasts and never passes SES_LEN
(42_modulator.md section 3, 10_state.md section 2). -/
def Obligations.PumpIsBounded : Prop :=
  ∀ s t : State, Inv s → exec .txPump s = .next t → t.status.transmitting = true →
    s.cursor.toNat ≤ t.cursor.toNat ∧ t.cursor.toNat ≤ s.cursor.toNat + 128 ∧ t.cursor.toNat ≤ s.sesLen.toNat

/-- TX_CANCEL in any state of a session, a first one or a repeated one: with a ready sink it sends the trailer,
unless that was sent, and the flush tone, if the trailer or the flush tone was still to come, flushes and ends the
session with ST_CANCELLED; with a busy sink it waits, CANCELLING set, at the trailer or at the closing state it
found (42_modulator.md section 4). -/
def Obligations.CancelDrainsAndEndsTheSession : Prop :=
  ∀ (s : State) (later : List Bool), Inv s → s.status.fault = false → s.status.transmitting = true →
    let units := makeUnits (closingUnits s.params true s.status.mstate) s.phase
    let cut := cutHandoffs s.params.orbMin (pendingSamples s) units.1
    let count := units.1.length + if cut.2 = [] then 1 else 2
    (readyFor count later s →
      ∃ t, exec .txCancel s = .next t ∧ pumpFrame s t ∧
        t.status = { s.status with
          code := .cancelled, cause := .none, transmitting := false, cancelling := false, mstate := .idle } ∧
        t.errinfo = 0 ∧ t.sesLen = 0 ∧ t.cursor = 0 ∧ t.orbSize = 0 ∧ t.phase = units.2 ∧
        t.sinkAnswers = later ∧ t.polls = s.polls + count ∧
        t.sinkLog = s.sinkLog ++ cut.1 ++ flushBlock s.params.orbMin cut.2 ∧
        orbFrame
          (unitRuns s.params.orbMin s.orbSize.toNat units.1 ++ paddingRuns s.params.orbMin cut.2.length) s t) ∧
    (s.sinkAnswers = false :: later →
      exec .txCancel s = .next { s with
        sinkAnswers := later, polls := s.polls + 1, errinfo := 0
        status := { s.status with
          code := .busy, cause := .none, cancelling := true
          mstate := if closing s.status.mstate then pollingPlace s.status.mstate s else .trailer } })

/-- R184: TONE emits one tone of its count and ARG0's tuning word: it faults during a session without polling, waits
when the sink is busy, faults when the samples do not fit, and else appends them, all pending samples going to the
sink at the threshold. Of ORB only the appended bytes change. With FAULT = 1 it is refused with EC_FAULTED; its word
is the opcode map's. -/
def Obligations.ToneEmitsOneUnit : Prop :=
  ∀ (s : State) (n : Nat) (later : List Bool), Inv s → n < 2 ^ 24 →
    decode (BitVec.ofNat 32 (256 * n + 0x13)) = .ok (.tone n) ∧
    refusedWhileFaulted (.tone n) s ∧
    (s.status.fault = false →
      let made := synth s.params s.arg0 n s.phase
      let full := pendingSamples s ++ made.1
      (s.status.transmitting = true →
        exec (.tone n) s = .next { s with status := statusFaulted .badState s.status, errinfo := 0 }) ∧
      (s.status.transmitting = false → s.sinkAnswers = false :: later →
        exec (.tone n) s = .next { s with
          sinkAnswers := later, polls := s.polls + 1, status := statusAfter .busy .none s.status, errinfo := 0 }) ∧
      (s.status.transmitting = false → s.sinkAnswers = true :: later → s.params.orbMax < s.orbSize.toNat + n →
        exec (.tone n) s = .next { s with
          sinkAnswers := later, polls := s.polls + 1
          status := statusFaulted .orbOverflow s.status, errinfo := BitVec.ofNat 32 (s.orbSize.toNat + n) }) ∧
      (s.status.transmitting = false → s.sinkAnswers = true :: later → s.orbSize.toNat + n ≤ s.params.orbMax →
        ∃ t, exec (.tone n) s = .next t ∧
          t = { s with
            sinkAnswers := later, polls := s.polls + 1, status := statusAfter .ok .none s.status, errinfo := 0
            phase := made.2, orb := t.orb, orbSize := t.orbSize, sinkLog := t.sinkLog } ∧
          (∀ a, a < s.orbSize.toNat ∨ s.orbSize.toNat + n ≤ a → byteAt .orb a t = byteAt .orb a s) ∧
          (s.orbSize.toNat + n < s.params.orbMin → t.sinkLog = s.sinkLog ∧ pendingSamples t = full) ∧
          (s.params.orbMin ≤ s.orbSize.toNat + n → t.sinkLog = s.sinkLog ++ [full] ∧ t.orbSize = 0)))

/-! ## The ring buffer -/

/-- R202, R207: ORB_FLUSH on an empty buffer ends with ST_OK without polling; with a busy sink it changes nothing;
else it hands off the pending samples, with zero bytes after them up to ORB_MIN, and leaves ORB_SIZE 0. PHASE and
the session are not touched, and of ORB only the padding bytes change. With FAULT = 1 it is refused with EC_FAULTED;
its word is the opcode map's. -/
def Obligations.OrbFlushPadsAndHandsOff : Prop :=
  decode 0x00000020 = .ok .orbFlush ∧ ∀ (s : State) (later : List Bool), Inv s →
    refusedWhileFaulted .orbFlush s ∧
    (s.status.fault = false →
      (s.orbSize = 0 →
        exec .orbFlush s = .next { s with status := statusAfter .ok .none s.status, errinfo := 0 }) ∧
      (s.orbSize ≠ 0 → s.sinkAnswers = false :: later →
        exec .orbFlush s = .next { s with
          sinkAnswers := later, polls := s.polls + 1, status := statusAfter .busy .none s.status, errinfo := 0 }) ∧
      (s.orbSize ≠ 0 → s.sinkAnswers = true :: later →
        ∃ t, exec .orbFlush s = .next t ∧
          t = { s with
            sinkAnswers := later, polls := s.polls + 1, status := statusAfter .ok .none s.status, errinfo := 0
            orb := t.orb, orbSize := 0
            sinkLog := s.sinkLog ++
              [pendingSamples s ++ List.replicate (s.params.orbMin - s.orbSize.toNat) 0] } ∧
          (∀ a, a < s.orbSize.toNat ∨ s.params.orbMin ≤ a → byteAt .orb a t = byteAt .orb a s)))

/-! ## Whole sessions -/

/-- With an always-ready sink a session of L bytes takes exactly ceil(L / 128) calls that consume data, each ending
with ST_IN_PROGRESS in M_DATA, the one that sends the last byte too, and then one more call that returns ST_COMPLETE
(42_modulator.md section 3). -/
def Obligations.SessionTakesExactlyItsPumps : Prop :=
  ∀ (s : State) (later : List Bool), Inv s → s.status.fault = false → s.status.mstate = .leader →
    s.status.cancelling = false → readyFor (s.sesLen.toNat + 6) later s →
    (∀ j, 1 ≤ j → j ≤ (s.sesLen.toNat + 127) / 128 →
      ∃ u, pumps j s = some u ∧ u.status.code = .inProgress ∧ u.status.mstate = .data ∧
        u.cursor.toNat = min (128 * j) s.sesLen.toNat) ∧
    (∃ t, pumps ((s.sesLen.toNat + 127) / 128 + 1) s = some t ∧ t.status.code = .complete ∧
      t.status.transmitting = false)

/-- The sample stream of a whole session, started with ORB empty and pumped to ST_COMPLETE: whatever the sink's
answers were, the hand-offs are the leader, the two sync frames, the frames of TXB[0..L) and the trailer, made one
after the other with the phase running through them, cut at the threshold between units, and a last block padded
with zero bytes (42_modulator.md section 5). -/
def Obligations.SessionStream : Prop :=
  ∀ (n : Nat) (s t : State), Inv s → s.status.fault = false → s.status.mstate = .leader →
    s.status.cancelling = false → s.orbSize = 0 → pumps n s = some t → t.status.mstate = .idle → t.status.code = .complete →
    let leader := synth s.params s.params.ftwMark (s.params.leaderBits * s.params.nsBit)
    let sync := frameSamples s.params s.cfg 0xAB true
    let data := (sessionBytes s).map (fun b => frameSamples s.params s.cfg b (s.cfg.getLsbD 0))
    let trailer := synth s.params s.params.ftwMark (s.params.trailerBits * s.params.nsBit)
    let units := makeUnits ([leader, sync, sync] ++ data ++ [trailer]) s.phase
    let cut := cutHandoffs s.params.orbMin [] units.1
    t.sinkLog = s.sinkLog ++ cut.1 ++ flushBlock s.params.orbMin cut.2 ∧
      t.phase = units.2 ∧
      units.1.flatten.length =
        (s.params.leaderBits + 32 + 16 * s.sesLen.toNat + s.params.trailerBits) * s.params.nsBit
end

