-- ==== Sys2Proof/Laws/State.lean ====
section
/-! SUPPORT. What each named update of the state leaves in each field: one lemma per field per update, so that no
proof unfolds a record update. -/

namespace Sys2Proof.Machine

/-! ## `finish` -/

@[simp] theorem finish_params (code : Code) (cause : Cause) (info : Word) (s : State) :
    (finish code cause info s).params = s.params := rfl
@[simp] theorem finish_cmd (code : Code) (cause : Cause) (info : Word) (s : State) :
    (finish code cause info s).cmd = s.cmd := rfl
@[simp] theorem finish_status (code : Code) (cause : Cause) (info : Word) (s : State) :
    (finish code cause info s).status = { s.status with code := code, cause := if code = .error then cause else .none } := rfl
@[simp] theorem finish_errinfo (code : Code) (cause : Cause) (info : Word) (s : State) :
    (finish code cause info s).errinfo = if code = .error then info else 0 := rfl
@[simp] theorem finish_arg0 (code : Code) (cause : Cause) (info : Word) (s : State) :
    (finish code cause info s).arg0 = s.arg0 := rfl
@[simp] theorem finish_res0 (code : Code) (cause : Cause) (info : Word) (s : State) :
    (finish code cause info s).res0 = s.res0 := rfl
@[simp] theorem finish_cfg (code : Code) (cause : Cause) (info : Word) (s : State) :
    (finish code cause info s).cfg = s.cfg := rfl
@[simp] theorem finish_srcLen (code : Code) (cause : Cause) (info : Word) (s : State) :
    (finish code cause info s).srcLen = s.srcLen := rfl
@[simp] theorem finish_codLen (code : Code) (cause : Cause) (info : Word) (s : State) :
    (finish code cause info s).codLen = s.codLen := rfl
@[simp] theorem finish_txbLen (code : Code) (cause : Cause) (info : Word) (s : State) :
    (finish code cause info s).txbLen = s.txbLen := rfl
@[simp] theorem finish_sesLen (code : Code) (cause : Cause) (info : Word) (s : State) :
    (finish code cause info s).sesLen = s.sesLen := rfl
@[simp] theorem finish_cursor (code : Code) (cause : Cause) (info : Word) (s : State) :
    (finish code cause info s).cursor = s.cursor := rfl
@[simp] theorem finish_orbSize (code : Code) (cause : Cause) (info : Word) (s : State) :
    (finish code cause info s).orbSize = s.orbSize := rfl
@[simp] theorem finish_phase (code : Code) (cause : Cause) (info : Word) (s : State) :
    (finish code cause info s).phase = s.phase := rfl
@[simp] theorem finish_par (code : Code) (cause : Cause) (info : Word) (s : State) :
    (finish code cause info s).par = s.par := rfl
@[simp] theorem finish_src (code : Code) (cause : Cause) (info : Word) (s : State) :
    (finish code cause info s).src = s.src := rfl
@[simp] theorem finish_srcStale (code : Code) (cause : Cause) (info : Word) (s : State) :
    (finish code cause info s).srcStale = s.srcStale := rfl
@[simp] theorem finish_cod (code : Code) (cause : Cause) (info : Word) (s : State) :
    (finish code cause info s).cod = s.cod := rfl
@[simp] theorem finish_txb (code : Code) (cause : Cause) (info : Word) (s : State) :
    (finish code cause info s).txb = s.txb := rfl
@[simp] theorem finish_orb (code : Code) (cause : Cause) (info : Word) (s : State) :
    (finish code cause info s).orb = s.orb := rfl
@[simp] theorem finish_sinkAnswers (code : Code) (cause : Cause) (info : Word) (s : State) :
    (finish code cause info s).sinkAnswers = s.sinkAnswers := rfl
@[simp] theorem finish_sinkLog (code : Code) (cause : Cause) (info : Word) (s : State) :
    (finish code cause info s).sinkLog = s.sinkLog := rfl
@[simp] theorem finish_polls (code : Code) (cause : Cause) (info : Word) (s : State) :
    (finish code cause info s).polls = s.polls := rfl
@[simp] theorem finish_inputs (code : Code) (cause : Cause) (info : Word) (s : State) :
    (finish code cause info s).inputs = s.inputs := rfl
@[simp] theorem finish_responses (code : Code) (cause : Cause) (info : Word) (s : State) :
    (finish code cause info s).responses = s.responses := rfl
@[simp] theorem finish_powerOns (code : Code) (cause : Cause) (info : Word) (s : State) :
    (finish code cause info s).powerOns = s.powerOns := rfl

/-! ## `finishWith` -/

@[simp] theorem finishWith_params (code : Code) (s : State) :
    (finishWith code s).params = s.params := rfl
@[simp] theorem finishWith_cmd (code : Code) (s : State) :
    (finishWith code s).cmd = s.cmd := rfl
@[simp] theorem finishWith_status (code : Code) (s : State) :
    (finishWith code s).status = { s.status with code := code, cause := .none } := by
  cases code <;> rfl
@[simp] theorem finishWith_errinfo (code : Code) (s : State) :
    (finishWith code s).errinfo = 0 := by
  cases code <;> rfl
@[simp] theorem finishWith_arg0 (code : Code) (s : State) :
    (finishWith code s).arg0 = s.arg0 := rfl
@[simp] theorem finishWith_res0 (code : Code) (s : State) :
    (finishWith code s).res0 = s.res0 := rfl
@[simp] theorem finishWith_cfg (code : Code) (s : State) :
    (finishWith code s).cfg = s.cfg := rfl
@[simp] theorem finishWith_srcLen (code : Code) (s : State) :
    (finishWith code s).srcLen = s.srcLen := rfl
@[simp] theorem finishWith_codLen (code : Code) (s : State) :
    (finishWith code s).codLen = s.codLen := rfl
@[simp] theorem finishWith_txbLen (code : Code) (s : State) :
    (finishWith code s).txbLen = s.txbLen := rfl
@[simp] theorem finishWith_sesLen (code : Code) (s : State) :
    (finishWith code s).sesLen = s.sesLen := rfl
@[simp] theorem finishWith_cursor (code : Code) (s : State) :
    (finishWith code s).cursor = s.cursor := rfl
@[simp] theorem finishWith_orbSize (code : Code) (s : State) :
    (finishWith code s).orbSize = s.orbSize := rfl
@[simp] theorem finishWith_phase (code : Code) (s : State) :
    (finishWith code s).phase = s.phase := rfl
@[simp] theorem finishWith_par (code : Code) (s : State) :
    (finishWith code s).par = s.par := rfl
@[simp] theorem finishWith_src (code : Code) (s : State) :
    (finishWith code s).src = s.src := rfl
@[simp] theorem finishWith_srcStale (code : Code) (s : State) :
    (finishWith code s).srcStale = s.srcStale := rfl
@[simp] theorem finishWith_cod (code : Code) (s : State) :
    (finishWith code s).cod = s.cod := rfl
@[simp] theorem finishWith_txb (code : Code) (s : State) :
    (finishWith code s).txb = s.txb := rfl
@[simp] theorem finishWith_orb (code : Code) (s : State) :
    (finishWith code s).orb = s.orb := rfl
@[simp] theorem finishWith_sinkAnswers (code : Code) (s : State) :
    (finishWith code s).sinkAnswers = s.sinkAnswers := rfl
@[simp] theorem finishWith_sinkLog (code : Code) (s : State) :
    (finishWith code s).sinkLog = s.sinkLog := rfl
@[simp] theorem finishWith_polls (code : Code) (s : State) :
    (finishWith code s).polls = s.polls := rfl
@[simp] theorem finishWith_inputs (code : Code) (s : State) :
    (finishWith code s).inputs = s.inputs := rfl
@[simp] theorem finishWith_responses (code : Code) (s : State) :
    (finishWith code s).responses = s.responses := rfl
@[simp] theorem finishWith_powerOns (code : Code) (s : State) :
    (finishWith code s).powerOns = s.powerOns := rfl

/-! ## `finishError` -/

@[simp] theorem finishError_params (cause : Cause) (s : State) :
    (finishError cause s).params = s.params := rfl
@[simp] theorem finishError_cmd (cause : Cause) (s : State) :
    (finishError cause s).cmd = s.cmd := rfl
@[simp] theorem finishError_status (cause : Cause) (s : State) :
    (finishError cause s).status = { s.status with code := .error, cause := cause } := rfl
@[simp] theorem finishError_errinfo (cause : Cause) (s : State) :
    (finishError cause s).errinfo = 0 := rfl
@[simp] theorem finishError_arg0 (cause : Cause) (s : State) :
    (finishError cause s).arg0 = s.arg0 := rfl
@[simp] theorem finishError_res0 (cause : Cause) (s : State) :
    (finishError cause s).res0 = s.res0 := rfl
@[simp] theorem finishError_cfg (cause : Cause) (s : State) :
    (finishError cause s).cfg = s.cfg := rfl
@[simp] theorem finishError_srcLen (cause : Cause) (s : State) :
    (finishError cause s).srcLen = s.srcLen := rfl
@[simp] theorem finishError_codLen (cause : Cause) (s : State) :
    (finishError cause s).codLen = s.codLen := rfl
@[simp] theorem finishError_txbLen (cause : Cause) (s : State) :
    (finishError cause s).txbLen = s.txbLen := rfl
@[simp] theorem finishError_sesLen (cause : Cause) (s : State) :
    (finishError cause s).sesLen = s.sesLen := rfl
@[simp] theorem finishError_cursor (cause : Cause) (s : State) :
    (finishError cause s).cursor = s.cursor := rfl
@[simp] theorem finishError_orbSize (cause : Cause) (s : State) :
    (finishError cause s).orbSize = s.orbSize := rfl
@[simp] theorem finishError_phase (cause : Cause) (s : State) :
    (finishError cause s).phase = s.phase := rfl
@[simp] theorem finishError_par (cause : Cause) (s : State) :
    (finishError cause s).par = s.par := rfl
@[simp] theorem finishError_src (cause : Cause) (s : State) :
    (finishError cause s).src = s.src := rfl
@[simp] theorem finishError_srcStale (cause : Cause) (s : State) :
    (finishError cause s).srcStale = s.srcStale := rfl
@[simp] theorem finishError_cod (cause : Cause) (s : State) :
    (finishError cause s).cod = s.cod := rfl
@[simp] theorem finishError_txb (cause : Cause) (s : State) :
    (finishError cause s).txb = s.txb := rfl
@[simp] theorem finishError_orb (cause : Cause) (s : State) :
    (finishError cause s).orb = s.orb := rfl
@[simp] theorem finishError_sinkAnswers (cause : Cause) (s : State) :
    (finishError cause s).sinkAnswers = s.sinkAnswers := rfl
@[simp] theorem finishError_sinkLog (cause : Cause) (s : State) :
    (finishError cause s).sinkLog = s.sinkLog := rfl
@[simp] theorem finishError_polls (cause : Cause) (s : State) :
    (finishError cause s).polls = s.polls := rfl
@[simp] theorem finishError_inputs (cause : Cause) (s : State) :
    (finishError cause s).inputs = s.inputs := rfl
@[simp] theorem finishError_responses (cause : Cause) (s : State) :
    (finishError cause s).responses = s.responses := rfl
@[simp] theorem finishError_powerOns (cause : Cause) (s : State) :
    (finishError cause s).powerOns = s.powerOns := rfl

/-! ## `raiseFault` -/

@[simp] theorem raiseFault_params (cause : Cause) (info : Word) (s : State) :
    (raiseFault cause info s).params = s.params := rfl
@[simp] theorem raiseFault_cmd (cause : Cause) (info : Word) (s : State) :
    (raiseFault cause info s).cmd = s.cmd := rfl
@[simp] theorem raiseFault_status (cause : Cause) (info : Word) (s : State) :
    (raiseFault cause info s).status = { s.status with code := .error, cause := cause, fault := true, fcause := if s.status.fault then s.status.fcause else cause } := rfl
@[simp] theorem raiseFault_errinfo (cause : Cause) (info : Word) (s : State) :
    (raiseFault cause info s).errinfo = info := rfl
@[simp] theorem raiseFault_arg0 (cause : Cause) (info : Word) (s : State) :
    (raiseFault cause info s).arg0 = s.arg0 := rfl
@[simp] theorem raiseFault_res0 (cause : Cause) (info : Word) (s : State) :
    (raiseFault cause info s).res0 = s.res0 := rfl
@[simp] theorem raiseFault_cfg (cause : Cause) (info : Word) (s : State) :
    (raiseFault cause info s).cfg = s.cfg := rfl
@[simp] theorem raiseFault_srcLen (cause : Cause) (info : Word) (s : State) :
    (raiseFault cause info s).srcLen = s.srcLen := rfl
@[simp] theorem raiseFault_codLen (cause : Cause) (info : Word) (s : State) :
    (raiseFault cause info s).codLen = s.codLen := rfl
@[simp] theorem raiseFault_txbLen (cause : Cause) (info : Word) (s : State) :
    (raiseFault cause info s).txbLen = s.txbLen := rfl
@[simp] theorem raiseFault_sesLen (cause : Cause) (info : Word) (s : State) :
    (raiseFault cause info s).sesLen = s.sesLen := rfl
@[simp] theorem raiseFault_cursor (cause : Cause) (info : Word) (s : State) :
    (raiseFault cause info s).cursor = s.cursor := rfl
@[simp] theorem raiseFault_orbSize (cause : Cause) (info : Word) (s : State) :
    (raiseFault cause info s).orbSize = s.orbSize := rfl
@[simp] theorem raiseFault_phase (cause : Cause) (info : Word) (s : State) :
    (raiseFault cause info s).phase = s.phase := rfl
@[simp] theorem raiseFault_par (cause : Cause) (info : Word) (s : State) :
    (raiseFault cause info s).par = s.par := rfl
@[simp] theorem raiseFault_src (cause : Cause) (info : Word) (s : State) :
    (raiseFault cause info s).src = s.src := rfl
@[simp] theorem raiseFault_srcStale (cause : Cause) (info : Word) (s : State) :
    (raiseFault cause info s).srcStale = s.srcStale := rfl
@[simp] theorem raiseFault_cod (cause : Cause) (info : Word) (s : State) :
    (raiseFault cause info s).cod = s.cod := rfl
@[simp] theorem raiseFault_txb (cause : Cause) (info : Word) (s : State) :
    (raiseFault cause info s).txb = s.txb := rfl
@[simp] theorem raiseFault_orb (cause : Cause) (info : Word) (s : State) :
    (raiseFault cause info s).orb = s.orb := rfl
@[simp] theorem raiseFault_sinkAnswers (cause : Cause) (info : Word) (s : State) :
    (raiseFault cause info s).sinkAnswers = s.sinkAnswers := rfl
@[simp] theorem raiseFault_sinkLog (cause : Cause) (info : Word) (s : State) :
    (raiseFault cause info s).sinkLog = s.sinkLog := rfl
@[simp] theorem raiseFault_polls (cause : Cause) (info : Word) (s : State) :
    (raiseFault cause info s).polls = s.polls := rfl
@[simp] theorem raiseFault_inputs (cause : Cause) (info : Word) (s : State) :
    (raiseFault cause info s).inputs = s.inputs := rfl
@[simp] theorem raiseFault_responses (cause : Cause) (info : Word) (s : State) :
    (raiseFault cause info s).responses = s.responses := rfl
@[simp] theorem raiseFault_powerOns (cause : Cause) (info : Word) (s : State) :
    (raiseFault cause info s).powerOns = s.powerOns := rfl

/-! ## `doReset` -/

@[simp] theorem doReset_params (s : State) :
    (doReset s).params = s.params := rfl
@[simp] theorem doReset_cmd (s : State) :
    (doReset s).cmd = s.cmd := rfl
@[simp] theorem doReset_status (s : State) :
    (doReset s).status = Status.reset := rfl
@[simp] theorem doReset_errinfo (s : State) :
    (doReset s).errinfo = 0 := rfl
@[simp] theorem doReset_arg0 (s : State) :
    (doReset s).arg0 = 0 := rfl
@[simp] theorem doReset_res0 (s : State) :
    (doReset s).res0 = 0 := rfl
@[simp] theorem doReset_cfg (s : State) :
    (doReset s).cfg = cfgReset s.params := rfl
@[simp] theorem doReset_srcLen (s : State) :
    (doReset s).srcLen = 0 := rfl
@[simp] theorem doReset_codLen (s : State) :
    (doReset s).codLen = 0 := rfl
@[simp] theorem doReset_txbLen (s : State) :
    (doReset s).txbLen = 0 := rfl
@[simp] theorem doReset_sesLen (s : State) :
    (doReset s).sesLen = 0 := rfl
@[simp] theorem doReset_cursor (s : State) :
    (doReset s).cursor = 0 := rfl
@[simp] theorem doReset_orbSize (s : State) :
    (doReset s).orbSize = 0 := rfl
@[simp] theorem doReset_phase (s : State) :
    (doReset s).phase = 0 := rfl
@[simp] theorem doReset_par (s : State) :
    (doReset s).par = s.par := rfl
@[simp] theorem doReset_src (s : State) :
    (doReset s).src = s.src := rfl
@[simp] theorem doReset_srcStale (s : State) :
    (doReset s).srcStale = s.src.map (fun c => c.1) := rfl
@[simp] theorem doReset_cod (s : State) :
    (doReset s).cod = s.cod := rfl
@[simp] theorem doReset_txb (s : State) :
    (doReset s).txb = s.txb := rfl
@[simp] theorem doReset_orb (s : State) :
    (doReset s).orb = s.orb := rfl
@[simp] theorem doReset_sinkAnswers (s : State) :
    (doReset s).sinkAnswers = s.sinkAnswers := rfl
@[simp] theorem doReset_sinkLog (s : State) :
    (doReset s).sinkLog = s.sinkLog := rfl
@[simp] theorem doReset_polls (s : State) :
    (doReset s).polls = s.polls := rfl
@[simp] theorem doReset_inputs (s : State) :
    (doReset s).inputs = s.inputs := rfl
@[simp] theorem doReset_responses (s : State) :
    (doReset s).responses = s.responses := rfl
@[simp] theorem doReset_powerOns (s : State) :
    (doReset s).powerOns = s.powerOns := rfl

/-! ## `powerOnReset` -/

@[simp] theorem powerOnReset_params (s : State) :
    (powerOnReset s).params = s.params := rfl
@[simp] theorem powerOnReset_cmd (s : State) :
    (powerOnReset s).cmd = 0 := rfl
@[simp] theorem powerOnReset_status (s : State) :
    (powerOnReset s).status = Status.reset := rfl
@[simp] theorem powerOnReset_errinfo (s : State) :
    (powerOnReset s).errinfo = 0 := rfl
@[simp] theorem powerOnReset_arg0 (s : State) :
    (powerOnReset s).arg0 = 0 := rfl
@[simp] theorem powerOnReset_res0 (s : State) :
    (powerOnReset s).res0 = 0 := rfl
@[simp] theorem powerOnReset_cfg (s : State) :
    (powerOnReset s).cfg = cfgReset s.params := rfl
@[simp] theorem powerOnReset_srcLen (s : State) :
    (powerOnReset s).srcLen = 0 := rfl
@[simp] theorem powerOnReset_codLen (s : State) :
    (powerOnReset s).codLen = 0 := rfl
@[simp] theorem powerOnReset_txbLen (s : State) :
    (powerOnReset s).txbLen = 0 := rfl
@[simp] theorem powerOnReset_sesLen (s : State) :
    (powerOnReset s).sesLen = 0 := rfl
@[simp] theorem powerOnReset_cursor (s : State) :
    (powerOnReset s).cursor = 0 := rfl
@[simp] theorem powerOnReset_orbSize (s : State) :
    (powerOnReset s).orbSize = 0 := rfl
@[simp] theorem powerOnReset_phase (s : State) :
    (powerOnReset s).phase = 0 := rfl
@[simp] theorem powerOnReset_par (s : State) :
    (powerOnReset s).par = Vector.replicate 32 0 := rfl
@[simp] theorem powerOnReset_src (s : State) :
    (powerOnReset s).src = [] := rfl
@[simp] theorem powerOnReset_srcStale (s : State) :
    (powerOnReset s).srcStale = [] := rfl
@[simp] theorem powerOnReset_cod (s : State) :
    (powerOnReset s).cod = [] := rfl
@[simp] theorem powerOnReset_txb (s : State) :
    (powerOnReset s).txb = [] := rfl
@[simp] theorem powerOnReset_orb (s : State) :
    (powerOnReset s).orb = [] := rfl
@[simp] theorem powerOnReset_sinkAnswers (s : State) :
    (powerOnReset s).sinkAnswers = s.sinkAnswers := rfl
@[simp] theorem powerOnReset_sinkLog (s : State) :
    (powerOnReset s).sinkLog = s.sinkLog := rfl
@[simp] theorem powerOnReset_polls (s : State) :
    (powerOnReset s).polls = s.polls := rfl
@[simp] theorem powerOnReset_inputs (s : State) :
    (powerOnReset s).inputs = s.inputs := rfl
@[simp] theorem powerOnReset_responses (s : State) :
    (powerOnReset s).responses = s.responses := rfl
@[simp] theorem powerOnReset_powerOns (s : State) :
    (powerOnReset s).powerOns = s.powerOns + 1 := rfl

/-! ## `sinkPoll` -/

@[simp] theorem sinkPoll_params (s : State) :
    (sinkPoll s).2.params = s.params := by
  unfold sinkPoll; split <;> simp [*]
@[simp] theorem sinkPoll_cmd (s : State) :
    (sinkPoll s).2.cmd = s.cmd := by
  unfold sinkPoll; split <;> simp [*]
@[simp] theorem sinkPoll_status (s : State) :
    (sinkPoll s).2.status = s.status := by
  unfold sinkPoll; split <;> simp [*]
@[simp] theorem sinkPoll_errinfo (s : State) :
    (sinkPoll s).2.errinfo = s.errinfo := by
  unfold sinkPoll; split <;> simp [*]
@[simp] theorem sinkPoll_arg0 (s : State) :
    (sinkPoll s).2.arg0 = s.arg0 := by
  unfold sinkPoll; split <;> simp [*]
@[simp] theorem sinkPoll_res0 (s : State) :
    (sinkPoll s).2.res0 = s.res0 := by
  unfold sinkPoll; split <;> simp [*]
@[simp] theorem sinkPoll_cfg (s : State) :
    (sinkPoll s).2.cfg = s.cfg := by
  unfold sinkPoll; split <;> simp [*]
@[simp] theorem sinkPoll_srcLen (s : State) :
    (sinkPoll s).2.srcLen = s.srcLen := by
  unfold sinkPoll; split <;> simp [*]
@[simp] theorem sinkPoll_codLen (s : State) :
    (sinkPoll s).2.codLen = s.codLen := by
  unfold sinkPoll; split <;> simp [*]
@[simp] theorem sinkPoll_txbLen (s : State) :
    (sinkPoll s).2.txbLen = s.txbLen := by
  unfold sinkPoll; split <;> simp [*]
@[simp] theorem sinkPoll_sesLen (s : State) :
    (sinkPoll s).2.sesLen = s.sesLen := by
  unfold sinkPoll; split <;> simp [*]
@[simp] theorem sinkPoll_cursor (s : State) :
    (sinkPoll s).2.cursor = s.cursor := by
  unfold sinkPoll; split <;> simp [*]
@[simp] theorem sinkPoll_orbSize (s : State) :
    (sinkPoll s).2.orbSize = s.orbSize := by
  unfold sinkPoll; split <;> simp [*]
@[simp] theorem sinkPoll_phase (s : State) :
    (sinkPoll s).2.phase = s.phase := by
  unfold sinkPoll; split <;> simp [*]
@[simp] theorem sinkPoll_par (s : State) :
    (sinkPoll s).2.par = s.par := by
  unfold sinkPoll; split <;> simp [*]
@[simp] theorem sinkPoll_src (s : State) :
    (sinkPoll s).2.src = s.src := by
  unfold sinkPoll; split <;> simp [*]
@[simp] theorem sinkPoll_srcStale (s : State) :
    (sinkPoll s).2.srcStale = s.srcStale := by
  unfold sinkPoll; split <;> simp [*]
@[simp] theorem sinkPoll_cod (s : State) :
    (sinkPoll s).2.cod = s.cod := by
  unfold sinkPoll; split <;> simp [*]
@[simp] theorem sinkPoll_txb (s : State) :
    (sinkPoll s).2.txb = s.txb := by
  unfold sinkPoll; split <;> simp [*]
@[simp] theorem sinkPoll_orb (s : State) :
    (sinkPoll s).2.orb = s.orb := by
  unfold sinkPoll; split <;> simp [*]
@[simp] theorem sinkPoll_sinkAnswers (s : State) :
    (sinkPoll s).2.sinkAnswers = s.sinkAnswers.drop 1 := by
  unfold sinkPoll; split <;> simp [*]
@[simp] theorem sinkPoll_sinkLog (s : State) :
    (sinkPoll s).2.sinkLog = s.sinkLog := by
  unfold sinkPoll; split <;> simp [*]
@[simp] theorem sinkPoll_polls (s : State) :
    (sinkPoll s).2.polls = s.polls + 1 := by
  unfold sinkPoll; split <;> simp [*]
@[simp] theorem sinkPoll_inputs (s : State) :
    (sinkPoll s).2.inputs = s.inputs := by
  unfold sinkPoll; split <;> simp [*]
@[simp] theorem sinkPoll_responses (s : State) :
    (sinkPoll s).2.responses = s.responses := by
  unfold sinkPoll; split <;> simp [*]
@[simp] theorem sinkPoll_powerOns (s : State) :
    (sinkPoll s).2.powerOns = s.powerOns := by
  unfold sinkPoll; split <;> simp [*]

/-! ## `sinkHandoff` -/

@[simp] theorem sinkHandoff_params (block : List Byte) (s : State) :
    (sinkHandoff block s).params = s.params := rfl
@[simp] theorem sinkHandoff_cmd (block : List Byte) (s : State) :
    (sinkHandoff block s).cmd = s.cmd := rfl
@[simp] theorem sinkHandoff_status (block : List Byte) (s : State) :
    (sinkHandoff block s).status = s.status := rfl
@[simp] theorem sinkHandoff_errinfo (block : List Byte) (s : State) :
    (sinkHandoff block s).errinfo = s.errinfo := rfl
@[simp] theorem sinkHandoff_arg0 (block : List Byte) (s : State) :
    (sinkHandoff block s).arg0 = s.arg0 := rfl
@[simp] theorem sinkHandoff_res0 (block : List Byte) (s : State) :
    (sinkHandoff block s).res0 = s.res0 := rfl
@[simp] theorem sinkHandoff_cfg (block : List Byte) (s : State) :
    (sinkHandoff block s).cfg = s.cfg := rfl
@[simp] theorem sinkHandoff_srcLen (block : List Byte) (s : State) :
    (sinkHandoff block s).srcLen = s.srcLen := rfl
@[simp] theorem sinkHandoff_codLen (block : List Byte) (s : State) :
    (sinkHandoff block s).codLen = s.codLen := rfl
@[simp] theorem sinkHandoff_txbLen (block : List Byte) (s : State) :
    (sinkHandoff block s).txbLen = s.txbLen := rfl
@[simp] theorem sinkHandoff_sesLen (block : List Byte) (s : State) :
    (sinkHandoff block s).sesLen = s.sesLen := rfl
@[simp] theorem sinkHandoff_cursor (block : List Byte) (s : State) :
    (sinkHandoff block s).cursor = s.cursor := rfl
@[simp] theorem sinkHandoff_orbSize (block : List Byte) (s : State) :
    (sinkHandoff block s).orbSize = s.orbSize := rfl
@[simp] theorem sinkHandoff_phase (block : List Byte) (s : State) :
    (sinkHandoff block s).phase = s.phase := rfl
@[simp] theorem sinkHandoff_par (block : List Byte) (s : State) :
    (sinkHandoff block s).par = s.par := rfl
@[simp] theorem sinkHandoff_src (block : List Byte) (s : State) :
    (sinkHandoff block s).src = s.src := rfl
@[simp] theorem sinkHandoff_srcStale (block : List Byte) (s : State) :
    (sinkHandoff block s).srcStale = s.srcStale := rfl
@[simp] theorem sinkHandoff_cod (block : List Byte) (s : State) :
    (sinkHandoff block s).cod = s.cod := rfl
@[simp] theorem sinkHandoff_txb (block : List Byte) (s : State) :
    (sinkHandoff block s).txb = s.txb := rfl
@[simp] theorem sinkHandoff_orb (block : List Byte) (s : State) :
    (sinkHandoff block s).orb = s.orb := rfl
@[simp] theorem sinkHandoff_sinkAnswers (block : List Byte) (s : State) :
    (sinkHandoff block s).sinkAnswers = s.sinkAnswers := rfl
@[simp] theorem sinkHandoff_sinkLog (block : List Byte) (s : State) :
    (sinkHandoff block s).sinkLog = s.sinkLog ++ [block] := rfl
@[simp] theorem sinkHandoff_polls (block : List Byte) (s : State) :
    (sinkHandoff block s).polls = s.polls := rfl
@[simp] theorem sinkHandoff_inputs (block : List Byte) (s : State) :
    (sinkHandoff block s).inputs = s.inputs := rfl
@[simp] theorem sinkHandoff_responses (block : List Byte) (s : State) :
    (sinkHandoff block s).responses = s.responses := rfl
@[simp] theorem sinkHandoff_powerOns (block : List Byte) (s : State) :
    (sinkHandoff block s).powerOns = s.powerOns := rfl

/-! ## `handOffPending` -/

@[simp] theorem handOffPending_params (s : State) :
    (handOffPending s).params = s.params := rfl
@[simp] theorem handOffPending_cmd (s : State) :
    (handOffPending s).cmd = s.cmd := rfl
@[simp] theorem handOffPending_status (s : State) :
    (handOffPending s).status = s.status := rfl
@[simp] theorem handOffPending_errinfo (s : State) :
    (handOffPending s).errinfo = s.errinfo := rfl
@[simp] theorem handOffPending_arg0 (s : State) :
    (handOffPending s).arg0 = s.arg0 := rfl
@[simp] theorem handOffPending_res0 (s : State) :
    (handOffPending s).res0 = s.res0 := rfl
@[simp] theorem handOffPending_cfg (s : State) :
    (handOffPending s).cfg = s.cfg := rfl
@[simp] theorem handOffPending_srcLen (s : State) :
    (handOffPending s).srcLen = s.srcLen := rfl
@[simp] theorem handOffPending_codLen (s : State) :
    (handOffPending s).codLen = s.codLen := rfl
@[simp] theorem handOffPending_txbLen (s : State) :
    (handOffPending s).txbLen = s.txbLen := rfl
@[simp] theorem handOffPending_sesLen (s : State) :
    (handOffPending s).sesLen = s.sesLen := rfl
@[simp] theorem handOffPending_cursor (s : State) :
    (handOffPending s).cursor = s.cursor := rfl
@[simp] theorem handOffPending_orbSize (s : State) :
    (handOffPending s).orbSize = 0 := rfl
@[simp] theorem handOffPending_phase (s : State) :
    (handOffPending s).phase = s.phase := rfl
@[simp] theorem handOffPending_par (s : State) :
    (handOffPending s).par = s.par := rfl
@[simp] theorem handOffPending_src (s : State) :
    (handOffPending s).src = s.src := rfl
@[simp] theorem handOffPending_srcStale (s : State) :
    (handOffPending s).srcStale = s.srcStale := rfl
@[simp] theorem handOffPending_cod (s : State) :
    (handOffPending s).cod = s.cod := rfl
@[simp] theorem handOffPending_txb (s : State) :
    (handOffPending s).txb = s.txb := rfl
@[simp] theorem handOffPending_orb (s : State) :
    (handOffPending s).orb = s.orb := rfl
@[simp] theorem handOffPending_sinkAnswers (s : State) :
    (handOffPending s).sinkAnswers = s.sinkAnswers := rfl
@[simp] theorem handOffPending_sinkLog (s : State) :
    (handOffPending s).sinkLog = s.sinkLog ++ [pendingSamples s] := rfl
@[simp] theorem handOffPending_polls (s : State) :
    (handOffPending s).polls = s.polls := rfl
@[simp] theorem handOffPending_inputs (s : State) :
    (handOffPending s).inputs = s.inputs := rfl
@[simp] theorem handOffPending_responses (s : State) :
    (handOffPending s).responses = s.responses := rfl
@[simp] theorem handOffPending_powerOns (s : State) :
    (handOffPending s).powerOns = s.powerOns := rfl

/-! ## `orbWrite` -/

@[simp] theorem orbWrite_params (samples : List Byte) (s : State) :
    (orbWrite samples s).params = s.params := rfl
@[simp] theorem orbWrite_cmd (samples : List Byte) (s : State) :
    (orbWrite samples s).cmd = s.cmd := rfl
@[simp] theorem orbWrite_status (samples : List Byte) (s : State) :
    (orbWrite samples s).status = s.status := rfl
@[simp] theorem orbWrite_errinfo (samples : List Byte) (s : State) :
    (orbWrite samples s).errinfo = s.errinfo := rfl
@[simp] theorem orbWrite_arg0 (samples : List Byte) (s : State) :
    (orbWrite samples s).arg0 = s.arg0 := rfl
@[simp] theorem orbWrite_res0 (samples : List Byte) (s : State) :
    (orbWrite samples s).res0 = s.res0 := rfl
@[simp] theorem orbWrite_cfg (samples : List Byte) (s : State) :
    (orbWrite samples s).cfg = s.cfg := rfl
@[simp] theorem orbWrite_srcLen (samples : List Byte) (s : State) :
    (orbWrite samples s).srcLen = s.srcLen := rfl
@[simp] theorem orbWrite_codLen (samples : List Byte) (s : State) :
    (orbWrite samples s).codLen = s.codLen := rfl
@[simp] theorem orbWrite_txbLen (samples : List Byte) (s : State) :
    (orbWrite samples s).txbLen = s.txbLen := rfl
@[simp] theorem orbWrite_sesLen (samples : List Byte) (s : State) :
    (orbWrite samples s).sesLen = s.sesLen := rfl
@[simp] theorem orbWrite_cursor (samples : List Byte) (s : State) :
    (orbWrite samples s).cursor = s.cursor := rfl
@[simp] theorem orbWrite_orbSize (samples : List Byte) (s : State) :
    (orbWrite samples s).orbSize = BitVec.ofNat 32 (s.orbSize.toNat + samples.length) := rfl
@[simp] theorem orbWrite_phase (samples : List Byte) (s : State) :
    (orbWrite samples s).phase = s.phase := rfl
@[simp] theorem orbWrite_par (samples : List Byte) (s : State) :
    (orbWrite samples s).par = s.par := rfl
@[simp] theorem orbWrite_src (samples : List Byte) (s : State) :
    (orbWrite samples s).src = s.src := rfl
@[simp] theorem orbWrite_srcStale (samples : List Byte) (s : State) :
    (orbWrite samples s).srcStale = s.srcStale := rfl
@[simp] theorem orbWrite_cod (samples : List Byte) (s : State) :
    (orbWrite samples s).cod = s.cod := rfl
@[simp] theorem orbWrite_txb (samples : List Byte) (s : State) :
    (orbWrite samples s).txb = s.txb := rfl
@[simp] theorem orbWrite_orb (samples : List Byte) (s : State) :
    (orbWrite samples s).orb = memWrite s.orb s.orbSize.toNat samples := rfl
@[simp] theorem orbWrite_sinkAnswers (samples : List Byte) (s : State) :
    (orbWrite samples s).sinkAnswers = s.sinkAnswers := rfl
@[simp] theorem orbWrite_sinkLog (samples : List Byte) (s : State) :
    (orbWrite samples s).sinkLog = s.sinkLog := rfl
@[simp] theorem orbWrite_polls (samples : List Byte) (s : State) :
    (orbWrite samples s).polls = s.polls := rfl
@[simp] theorem orbWrite_inputs (samples : List Byte) (s : State) :
    (orbWrite samples s).inputs = s.inputs := rfl
@[simp] theorem orbWrite_responses (samples : List Byte) (s : State) :
    (orbWrite samples s).responses = s.responses := rfl
@[simp] theorem orbWrite_powerOns (samples : List Byte) (s : State) :
    (orbWrite samples s).powerOns = s.powerOns := rfl

/-! ## `autoHandoff` -/

@[simp] theorem autoHandoff_params (s : State) :
    (autoHandoff s).params = s.params := by
  unfold autoHandoff; split <;> rfl
@[simp] theorem autoHandoff_cmd (s : State) :
    (autoHandoff s).cmd = s.cmd := by
  unfold autoHandoff; split <;> rfl
@[simp] theorem autoHandoff_status (s : State) :
    (autoHandoff s).status = s.status := by
  unfold autoHandoff; split <;> rfl
@[simp] theorem autoHandoff_errinfo (s : State) :
    (autoHandoff s).errinfo = s.errinfo := by
  unfold autoHandoff; split <;> rfl
@[simp] theorem autoHandoff_arg0 (s : State) :
    (autoHandoff s).arg0 = s.arg0 := by
  unfold autoHandoff; split <;> rfl
@[simp] theorem autoHandoff_res0 (s : State) :
    (autoHandoff s).res0 = s.res0 := by
  unfold autoHandoff; split <;> rfl
@[simp] theorem autoHandoff_cfg (s : State) :
    (autoHandoff s).cfg = s.cfg := by
  unfold autoHandoff; split <;> rfl
@[simp] theorem autoHandoff_srcLen (s : State) :
    (autoHandoff s).srcLen = s.srcLen := by
  unfold autoHandoff; split <;> rfl
@[simp] theorem autoHandoff_codLen (s : State) :
    (autoHandoff s).codLen = s.codLen := by
  unfold autoHandoff; split <;> rfl
@[simp] theorem autoHandoff_txbLen (s : State) :
    (autoHandoff s).txbLen = s.txbLen := by
  unfold autoHandoff; split <;> rfl
@[simp] theorem autoHandoff_sesLen (s : State) :
    (autoHandoff s).sesLen = s.sesLen := by
  unfold autoHandoff; split <;> rfl
@[simp] theorem autoHandoff_cursor (s : State) :
    (autoHandoff s).cursor = s.cursor := by
  unfold autoHandoff; split <;> rfl
@[simp] theorem autoHandoff_phase (s : State) :
    (autoHandoff s).phase = s.phase := by
  unfold autoHandoff; split <;> rfl
@[simp] theorem autoHandoff_par (s : State) :
    (autoHandoff s).par = s.par := by
  unfold autoHandoff; split <;> rfl
@[simp] theorem autoHandoff_src (s : State) :
    (autoHandoff s).src = s.src := by
  unfold autoHandoff; split <;> rfl
@[simp] theorem autoHandoff_srcStale (s : State) :
    (autoHandoff s).srcStale = s.srcStale := by
  unfold autoHandoff; split <;> rfl
@[simp] theorem autoHandoff_cod (s : State) :
    (autoHandoff s).cod = s.cod := by
  unfold autoHandoff; split <;> rfl
@[simp] theorem autoHandoff_txb (s : State) :
    (autoHandoff s).txb = s.txb := by
  unfold autoHandoff; split <;> rfl
@[simp] theorem autoHandoff_orb (s : State) :
    (autoHandoff s).orb = s.orb := by
  unfold autoHandoff; split <;> rfl
@[simp] theorem autoHandoff_sinkAnswers (s : State) :
    (autoHandoff s).sinkAnswers = s.sinkAnswers := by
  unfold autoHandoff; split <;> rfl
@[simp] theorem autoHandoff_polls (s : State) :
    (autoHandoff s).polls = s.polls := by
  unfold autoHandoff; split <;> rfl
@[simp] theorem autoHandoff_inputs (s : State) :
    (autoHandoff s).inputs = s.inputs := by
  unfold autoHandoff; split <;> rfl
@[simp] theorem autoHandoff_responses (s : State) :
    (autoHandoff s).responses = s.responses := by
  unfold autoHandoff; split <;> rfl
@[simp] theorem autoHandoff_powerOns (s : State) :
    (autoHandoff s).powerOns = s.powerOns := by
  unfold autoHandoff; split <;> rfl

/-! ## `padToThreshold` -/

@[simp] theorem padToThreshold_params (s : State) :
    (padToThreshold s).params = s.params := by
  unfold padToThreshold; split <;> rfl
@[simp] theorem padToThreshold_cmd (s : State) :
    (padToThreshold s).cmd = s.cmd := by
  unfold padToThreshold; split <;> rfl
@[simp] theorem padToThreshold_status (s : State) :
    (padToThreshold s).status = s.status := by
  unfold padToThreshold; split <;> rfl
@[simp] theorem padToThreshold_errinfo (s : State) :
    (padToThreshold s).errinfo = s.errinfo := by
  unfold padToThreshold; split <;> rfl
@[simp] theorem padToThreshold_arg0 (s : State) :
    (padToThreshold s).arg0 = s.arg0 := by
  unfold padToThreshold; split <;> rfl
@[simp] theorem padToThreshold_res0 (s : State) :
    (padToThreshold s).res0 = s.res0 := by
  unfold padToThreshold; split <;> rfl
@[simp] theorem padToThreshold_cfg (s : State) :
    (padToThreshold s).cfg = s.cfg := by
  unfold padToThreshold; split <;> rfl
@[simp] theorem padToThreshold_srcLen (s : State) :
    (padToThreshold s).srcLen = s.srcLen := by
  unfold padToThreshold; split <;> rfl
@[simp] theorem padToThreshold_codLen (s : State) :
    (padToThreshold s).codLen = s.codLen := by
  unfold padToThreshold; split <;> rfl
@[simp] theorem padToThreshold_txbLen (s : State) :
    (padToThreshold s).txbLen = s.txbLen := by
  unfold padToThreshold; split <;> rfl
@[simp] theorem padToThreshold_sesLen (s : State) :
    (padToThreshold s).sesLen = s.sesLen := by
  unfold padToThreshold; split <;> rfl
@[simp] theorem padToThreshold_cursor (s : State) :
    (padToThreshold s).cursor = s.cursor := by
  unfold padToThreshold; split <;> rfl
@[simp] theorem padToThreshold_phase (s : State) :
    (padToThreshold s).phase = s.phase := by
  unfold padToThreshold; split <;> rfl
@[simp] theorem padToThreshold_par (s : State) :
    (padToThreshold s).par = s.par := by
  unfold padToThreshold; split <;> rfl
@[simp] theorem padToThreshold_src (s : State) :
    (padToThreshold s).src = s.src := by
  unfold padToThreshold; split <;> rfl
@[simp] theorem padToThreshold_srcStale (s : State) :
    (padToThreshold s).srcStale = s.srcStale := by
  unfold padToThreshold; split <;> rfl
@[simp] theorem padToThreshold_cod (s : State) :
    (padToThreshold s).cod = s.cod := by
  unfold padToThreshold; split <;> rfl
@[simp] theorem padToThreshold_txb (s : State) :
    (padToThreshold s).txb = s.txb := by
  unfold padToThreshold; split <;> rfl
@[simp] theorem padToThreshold_sinkAnswers (s : State) :
    (padToThreshold s).sinkAnswers = s.sinkAnswers := by
  unfold padToThreshold; split <;> rfl
@[simp] theorem padToThreshold_sinkLog (s : State) :
    (padToThreshold s).sinkLog = s.sinkLog := by
  unfold padToThreshold; split <;> rfl
@[simp] theorem padToThreshold_polls (s : State) :
    (padToThreshold s).polls = s.polls := by
  unfold padToThreshold; split <;> rfl
@[simp] theorem padToThreshold_inputs (s : State) :
    (padToThreshold s).inputs = s.inputs := by
  unfold padToThreshold; split <;> rfl
@[simp] theorem padToThreshold_responses (s : State) :
    (padToThreshold s).responses = s.responses := by
  unfold padToThreshold; split <;> rfl
@[simp] theorem padToThreshold_powerOns (s : State) :
    (padToThreshold s).powerOns = s.powerOns := by
  unfold padToThreshold; split <;> rfl

/-! ## `orbFlush` -/

@[simp] theorem orbFlush_params (s : State) :
    (orbFlush s).params = s.params := by
  simp [orbFlush]
@[simp] theorem orbFlush_cmd (s : State) :
    (orbFlush s).cmd = s.cmd := by
  simp [orbFlush]
@[simp] theorem orbFlush_status (s : State) :
    (orbFlush s).status = s.status := by
  simp [orbFlush]
@[simp] theorem orbFlush_errinfo (s : State) :
    (orbFlush s).errinfo = s.errinfo := by
  simp [orbFlush]
@[simp] theorem orbFlush_arg0 (s : State) :
    (orbFlush s).arg0 = s.arg0 := by
  simp [orbFlush]
@[simp] theorem orbFlush_res0 (s : State) :
    (orbFlush s).res0 = s.res0 := by
  simp [orbFlush]
@[simp] theorem orbFlush_cfg (s : State) :
    (orbFlush s).cfg = s.cfg := by
  simp [orbFlush]
@[simp] theorem orbFlush_srcLen (s : State) :
    (orbFlush s).srcLen = s.srcLen := by
  simp [orbFlush]
@[simp] theorem orbFlush_codLen (s : State) :
    (orbFlush s).codLen = s.codLen := by
  simp [orbFlush]
@[simp] theorem orbFlush_txbLen (s : State) :
    (orbFlush s).txbLen = s.txbLen := by
  simp [orbFlush]
@[simp] theorem orbFlush_sesLen (s : State) :
    (orbFlush s).sesLen = s.sesLen := by
  simp [orbFlush]
@[simp] theorem orbFlush_cursor (s : State) :
    (orbFlush s).cursor = s.cursor := by
  simp [orbFlush]
@[simp] theorem orbFlush_orbSize (s : State) :
    (orbFlush s).orbSize = 0 := rfl
@[simp] theorem orbFlush_phase (s : State) :
    (orbFlush s).phase = s.phase := by
  simp [orbFlush]
@[simp] theorem orbFlush_par (s : State) :
    (orbFlush s).par = s.par := by
  simp [orbFlush]
@[simp] theorem orbFlush_src (s : State) :
    (orbFlush s).src = s.src := by
  simp [orbFlush]
@[simp] theorem orbFlush_srcStale (s : State) :
    (orbFlush s).srcStale = s.srcStale := by
  simp [orbFlush]
@[simp] theorem orbFlush_cod (s : State) :
    (orbFlush s).cod = s.cod := by
  simp [orbFlush]
@[simp] theorem orbFlush_txb (s : State) :
    (orbFlush s).txb = s.txb := by
  simp [orbFlush]
@[simp] theorem orbFlush_orb (s : State) :
    (orbFlush s).orb = (padToThreshold s).orb := rfl
@[simp] theorem orbFlush_sinkAnswers (s : State) :
    (orbFlush s).sinkAnswers = s.sinkAnswers := by
  simp [orbFlush]
@[simp] theorem orbFlush_sinkLog (s : State) :
    (orbFlush s).sinkLog = s.sinkLog ++ [pendingSamples (padToThreshold s)] := by
  simp [orbFlush]
@[simp] theorem orbFlush_polls (s : State) :
    (orbFlush s).polls = s.polls := by
  simp [orbFlush]
@[simp] theorem orbFlush_inputs (s : State) :
    (orbFlush s).inputs = s.inputs := by
  simp [orbFlush]
@[simp] theorem orbFlush_responses (s : State) :
    (orbFlush s).responses = s.responses := by
  simp [orbFlush]
@[simp] theorem orbFlush_powerOns (s : State) :
    (orbFlush s).powerOns = s.powerOns := by
  simp [orbFlush]

/-! ## `setMState` -/

@[simp] theorem setMState_params (m : MState) (s : State) :
    (setMState m s).params = s.params := rfl
@[simp] theorem setMState_cmd (m : MState) (s : State) :
    (setMState m s).cmd = s.cmd := rfl
@[simp] theorem setMState_status (m : MState) (s : State) :
    (setMState m s).status = { s.status with mstate := m } := rfl
@[simp] theorem setMState_errinfo (m : MState) (s : State) :
    (setMState m s).errinfo = s.errinfo := rfl
@[simp] theorem setMState_arg0 (m : MState) (s : State) :
    (setMState m s).arg0 = s.arg0 := rfl
@[simp] theorem setMState_res0 (m : MState) (s : State) :
    (setMState m s).res0 = s.res0 := rfl
@[simp] theorem setMState_cfg (m : MState) (s : State) :
    (setMState m s).cfg = s.cfg := rfl
@[simp] theorem setMState_srcLen (m : MState) (s : State) :
    (setMState m s).srcLen = s.srcLen := rfl
@[simp] theorem setMState_codLen (m : MState) (s : State) :
    (setMState m s).codLen = s.codLen := rfl
@[simp] theorem setMState_txbLen (m : MState) (s : State) :
    (setMState m s).txbLen = s.txbLen := rfl
@[simp] theorem setMState_sesLen (m : MState) (s : State) :
    (setMState m s).sesLen = s.sesLen := rfl
@[simp] theorem setMState_cursor (m : MState) (s : State) :
    (setMState m s).cursor = s.cursor := rfl
@[simp] theorem setMState_orbSize (m : MState) (s : State) :
    (setMState m s).orbSize = s.orbSize := rfl
@[simp] theorem setMState_phase (m : MState) (s : State) :
    (setMState m s).phase = s.phase := rfl
@[simp] theorem setMState_par (m : MState) (s : State) :
    (setMState m s).par = s.par := rfl
@[simp] theorem setMState_src (m : MState) (s : State) :
    (setMState m s).src = s.src := rfl
@[simp] theorem setMState_srcStale (m : MState) (s : State) :
    (setMState m s).srcStale = s.srcStale := rfl
@[simp] theorem setMState_cod (m : MState) (s : State) :
    (setMState m s).cod = s.cod := rfl
@[simp] theorem setMState_txb (m : MState) (s : State) :
    (setMState m s).txb = s.txb := rfl
@[simp] theorem setMState_orb (m : MState) (s : State) :
    (setMState m s).orb = s.orb := rfl
@[simp] theorem setMState_sinkAnswers (m : MState) (s : State) :
    (setMState m s).sinkAnswers = s.sinkAnswers := rfl
@[simp] theorem setMState_sinkLog (m : MState) (s : State) :
    (setMState m s).sinkLog = s.sinkLog := rfl
@[simp] theorem setMState_polls (m : MState) (s : State) :
    (setMState m s).polls = s.polls := rfl
@[simp] theorem setMState_inputs (m : MState) (s : State) :
    (setMState m s).inputs = s.inputs := rfl
@[simp] theorem setMState_responses (m : MState) (s : State) :
    (setMState m s).responses = s.responses := rfl
@[simp] theorem setMState_powerOns (m : MState) (s : State) :
    (setMState m s).powerOns = s.powerOns := rfl

/-! ## `endSession` -/

@[simp] theorem endSession_params (s : State) :
    (endSession s).params = s.params := rfl
@[simp] theorem endSession_cmd (s : State) :
    (endSession s).cmd = s.cmd := rfl
@[simp] theorem endSession_status (s : State) :
    (endSession s).status = { s.status with transmitting := false, cancelling := false, mstate := .idle } := rfl
@[simp] theorem endSession_errinfo (s : State) :
    (endSession s).errinfo = s.errinfo := rfl
@[simp] theorem endSession_arg0 (s : State) :
    (endSession s).arg0 = s.arg0 := rfl
@[simp] theorem endSession_res0 (s : State) :
    (endSession s).res0 = s.res0 := rfl
@[simp] theorem endSession_cfg (s : State) :
    (endSession s).cfg = s.cfg := rfl
@[simp] theorem endSession_srcLen (s : State) :
    (endSession s).srcLen = s.srcLen := rfl
@[simp] theorem endSession_codLen (s : State) :
    (endSession s).codLen = s.codLen := rfl
@[simp] theorem endSession_txbLen (s : State) :
    (endSession s).txbLen = s.txbLen := rfl
@[simp] theorem endSession_sesLen (s : State) :
    (endSession s).sesLen = 0 := rfl
@[simp] theorem endSession_cursor (s : State) :
    (endSession s).cursor = 0 := rfl
@[simp] theorem endSession_orbSize (s : State) :
    (endSession s).orbSize = s.orbSize := rfl
@[simp] theorem endSession_phase (s : State) :
    (endSession s).phase = s.phase := rfl
@[simp] theorem endSession_par (s : State) :
    (endSession s).par = s.par := rfl
@[simp] theorem endSession_src (s : State) :
    (endSession s).src = s.src := rfl
@[simp] theorem endSession_srcStale (s : State) :
    (endSession s).srcStale = s.srcStale := rfl
@[simp] theorem endSession_cod (s : State) :
    (endSession s).cod = s.cod := rfl
@[simp] theorem endSession_txb (s : State) :
    (endSession s).txb = s.txb := rfl
@[simp] theorem endSession_orb (s : State) :
    (endSession s).orb = s.orb := rfl
@[simp] theorem endSession_sinkAnswers (s : State) :
    (endSession s).sinkAnswers = s.sinkAnswers := rfl
@[simp] theorem endSession_sinkLog (s : State) :
    (endSession s).sinkLog = s.sinkLog := rfl
@[simp] theorem endSession_polls (s : State) :
    (endSession s).polls = s.polls := rfl
@[simp] theorem endSession_inputs (s : State) :
    (endSession s).inputs = s.inputs := rfl
@[simp] theorem endSession_responses (s : State) :
    (endSession s).responses = s.responses := rfl
@[simp] theorem endSession_powerOns (s : State) :
    (endSession s).powerOns = s.powerOns := rfl

/-! ## `openSession` -/

@[simp] theorem openSession_params (s : State) :
    (openSession s).params = s.params := rfl
@[simp] theorem openSession_cmd (s : State) :
    (openSession s).cmd = s.cmd := rfl
@[simp] theorem openSession_status (s : State) :
    (openSession s).status = { s.status with cancelling := false, transmitting := true, mstate := .leader } := rfl
@[simp] theorem openSession_errinfo (s : State) :
    (openSession s).errinfo = s.errinfo := rfl
@[simp] theorem openSession_arg0 (s : State) :
    (openSession s).arg0 = s.arg0 := rfl
@[simp] theorem openSession_res0 (s : State) :
    (openSession s).res0 = s.res0 := rfl
@[simp] theorem openSession_cfg (s : State) :
    (openSession s).cfg = s.cfg := rfl
@[simp] theorem openSession_srcLen (s : State) :
    (openSession s).srcLen = s.srcLen := rfl
@[simp] theorem openSession_codLen (s : State) :
    (openSession s).codLen = s.codLen := rfl
@[simp] theorem openSession_txbLen (s : State) :
    (openSession s).txbLen = s.txbLen := rfl
@[simp] theorem openSession_sesLen (s : State) :
    (openSession s).sesLen = s.txbLen := rfl
@[simp] theorem openSession_cursor (s : State) :
    (openSession s).cursor = 0 := rfl
@[simp] theorem openSession_orbSize (s : State) :
    (openSession s).orbSize = s.orbSize := rfl
@[simp] theorem openSession_phase (s : State) :
    (openSession s).phase = s.phase := rfl
@[simp] theorem openSession_par (s : State) :
    (openSession s).par = s.par := rfl
@[simp] theorem openSession_src (s : State) :
    (openSession s).src = s.src := rfl
@[simp] theorem openSession_srcStale (s : State) :
    (openSession s).srcStale = s.srcStale := rfl
@[simp] theorem openSession_cod (s : State) :
    (openSession s).cod = s.cod := rfl
@[simp] theorem openSession_txb (s : State) :
    (openSession s).txb = s.txb := rfl
@[simp] theorem openSession_orb (s : State) :
    (openSession s).orb = s.orb := rfl
@[simp] theorem openSession_sinkAnswers (s : State) :
    (openSession s).sinkAnswers = s.sinkAnswers := rfl
@[simp] theorem openSession_sinkLog (s : State) :
    (openSession s).sinkLog = s.sinkLog := rfl
@[simp] theorem openSession_polls (s : State) :
    (openSession s).polls = s.polls := rfl
@[simp] theorem openSession_inputs (s : State) :
    (openSession s).inputs = s.inputs := rfl
@[simp] theorem openSession_responses (s : State) :
    (openSession s).responses = s.responses := rfl
@[simp] theorem openSession_powerOns (s : State) :
    (openSession s).powerOns = s.powerOns := rfl

/-! ## `beginCancel` -/

@[simp] theorem beginCancel_params (s : State) :
    (beginCancel s).params = s.params := by
  unfold beginCancel; split <;> rfl
@[simp] theorem beginCancel_cmd (s : State) :
    (beginCancel s).cmd = s.cmd := by
  unfold beginCancel; split <;> rfl
@[simp] theorem beginCancel_errinfo (s : State) :
    (beginCancel s).errinfo = s.errinfo := by
  unfold beginCancel; split <;> rfl
@[simp] theorem beginCancel_arg0 (s : State) :
    (beginCancel s).arg0 = s.arg0 := by
  unfold beginCancel; split <;> rfl
@[simp] theorem beginCancel_res0 (s : State) :
    (beginCancel s).res0 = s.res0 := by
  unfold beginCancel; split <;> rfl
@[simp] theorem beginCancel_cfg (s : State) :
    (beginCancel s).cfg = s.cfg := by
  unfold beginCancel; split <;> rfl
@[simp] theorem beginCancel_srcLen (s : State) :
    (beginCancel s).srcLen = s.srcLen := by
  unfold beginCancel; split <;> rfl
@[simp] theorem beginCancel_codLen (s : State) :
    (beginCancel s).codLen = s.codLen := by
  unfold beginCancel; split <;> rfl
@[simp] theorem beginCancel_txbLen (s : State) :
    (beginCancel s).txbLen = s.txbLen := by
  unfold beginCancel; split <;> rfl
@[simp] theorem beginCancel_sesLen (s : State) :
    (beginCancel s).sesLen = s.sesLen := by
  unfold beginCancel; split <;> rfl
@[simp] theorem beginCancel_cursor (s : State) :
    (beginCancel s).cursor = s.cursor := by
  unfold beginCancel; split <;> rfl
@[simp] theorem beginCancel_orbSize (s : State) :
    (beginCancel s).orbSize = s.orbSize := by
  unfold beginCancel; split <;> rfl
@[simp] theorem beginCancel_phase (s : State) :
    (beginCancel s).phase = s.phase := by
  unfold beginCancel; split <;> rfl
@[simp] theorem beginCancel_par (s : State) :
    (beginCancel s).par = s.par := by
  unfold beginCancel; split <;> rfl
@[simp] theorem beginCancel_src (s : State) :
    (beginCancel s).src = s.src := by
  unfold beginCancel; split <;> rfl
@[simp] theorem beginCancel_srcStale (s : State) :
    (beginCancel s).srcStale = s.srcStale := by
  unfold beginCancel; split <;> rfl
@[simp] theorem beginCancel_cod (s : State) :
    (beginCancel s).cod = s.cod := by
  unfold beginCancel; split <;> rfl
@[simp] theorem beginCancel_txb (s : State) :
    (beginCancel s).txb = s.txb := by
  unfold beginCancel; split <;> rfl
@[simp] theorem beginCancel_orb (s : State) :
    (beginCancel s).orb = s.orb := by
  unfold beginCancel; split <;> rfl
@[simp] theorem beginCancel_sinkAnswers (s : State) :
    (beginCancel s).sinkAnswers = s.sinkAnswers := by
  unfold beginCancel; split <;> rfl
@[simp] theorem beginCancel_sinkLog (s : State) :
    (beginCancel s).sinkLog = s.sinkLog := by
  unfold beginCancel; split <;> rfl
@[simp] theorem beginCancel_polls (s : State) :
    (beginCancel s).polls = s.polls := by
  unfold beginCancel; split <;> rfl
@[simp] theorem beginCancel_inputs (s : State) :
    (beginCancel s).inputs = s.inputs := by
  unfold beginCancel; split <;> rfl
@[simp] theorem beginCancel_responses (s : State) :
    (beginCancel s).responses = s.responses := by
  unfold beginCancel; split <;> rfl
@[simp] theorem beginCancel_powerOns (s : State) :
    (beginCancel s).powerOns = s.powerOns := by
  unfold beginCancel; split <;> rfl

/-! ## `encodeSource` -/

@[simp] theorem encodeSource_params (s : State) :
    (encodeSource s).params = s.params := rfl
@[simp] theorem encodeSource_cmd (s : State) :
    (encodeSource s).cmd = s.cmd := rfl
@[simp] theorem encodeSource_status (s : State) :
    (encodeSource s).status = s.status := rfl
@[simp] theorem encodeSource_errinfo (s : State) :
    (encodeSource s).errinfo = s.errinfo := rfl
@[simp] theorem encodeSource_arg0 (s : State) :
    (encodeSource s).arg0 = s.arg0 := rfl
@[simp] theorem encodeSource_res0 (s : State) :
    (encodeSource s).res0 = BitVec.ofNat 32 (Config.rsN * chunkCount (srcLength s)) := rfl
@[simp] theorem encodeSource_cfg (s : State) :
    (encodeSource s).cfg = s.cfg := rfl
@[simp] theorem encodeSource_srcLen (s : State) :
    (encodeSource s).srcLen = s.srcLen := rfl
@[simp] theorem encodeSource_codLen (s : State) :
    (encodeSource s).codLen = BitVec.ofNat 32 (Config.rsN * chunkCount (srcLength s)) := rfl
@[simp] theorem encodeSource_txbLen (s : State) :
    (encodeSource s).txbLen = s.txbLen := rfl
@[simp] theorem encodeSource_sesLen (s : State) :
    (encodeSource s).sesLen = s.sesLen := rfl
@[simp] theorem encodeSource_cursor (s : State) :
    (encodeSource s).cursor = s.cursor := rfl
@[simp] theorem encodeSource_orbSize (s : State) :
    (encodeSource s).orbSize = s.orbSize := rfl
@[simp] theorem encodeSource_phase (s : State) :
    (encodeSource s).phase = s.phase := rfl
@[simp] theorem encodeSource_par (s : State) :
    (encodeSource s).par = parFile (parAfter s.params.rsPrim (paddedMessage (srcChunk (chunkCount (srcLength s) - 1) s))) := rfl
@[simp] theorem encodeSource_src (s : State) :
    (encodeSource s).src = s.src := rfl
@[simp] theorem encodeSource_srcStale (s : State) :
    (encodeSource s).srcStale = s.srcStale := rfl
@[simp] theorem encodeSource_cod (s : State) :
    (encodeSource s).cod = memWrite s.cod 0 (codewords s).flatten := rfl
@[simp] theorem encodeSource_txb (s : State) :
    (encodeSource s).txb = s.txb := rfl
@[simp] theorem encodeSource_orb (s : State) :
    (encodeSource s).orb = s.orb := rfl
@[simp] theorem encodeSource_sinkAnswers (s : State) :
    (encodeSource s).sinkAnswers = s.sinkAnswers := rfl
@[simp] theorem encodeSource_sinkLog (s : State) :
    (encodeSource s).sinkLog = s.sinkLog := rfl
@[simp] theorem encodeSource_polls (s : State) :
    (encodeSource s).polls = s.polls := rfl
@[simp] theorem encodeSource_inputs (s : State) :
    (encodeSource s).inputs = s.inputs := rfl
@[simp] theorem encodeSource_responses (s : State) :
    (encodeSource s).responses = s.responses := rfl
@[simp] theorem encodeSource_powerOns (s : State) :
    (encodeSource s).powerOns = s.powerOns := rfl

/-! ## `escapeCoded` -/

@[simp] theorem escapeCoded_params (s : State) :
    (escapeCoded s).params = s.params := rfl
@[simp] theorem escapeCoded_cmd (s : State) :
    (escapeCoded s).cmd = s.cmd := rfl
@[simp] theorem escapeCoded_status (s : State) :
    (escapeCoded s).status = s.status := rfl
@[simp] theorem escapeCoded_errinfo (s : State) :
    (escapeCoded s).errinfo = s.errinfo := rfl
@[simp] theorem escapeCoded_arg0 (s : State) :
    (escapeCoded s).arg0 = s.arg0 := rfl
@[simp] theorem escapeCoded_res0 (s : State) :
    (escapeCoded s).res0 = BitVec.ofNat 32 (escape (codBytes s)).length := rfl
@[simp] theorem escapeCoded_cfg (s : State) :
    (escapeCoded s).cfg = s.cfg := rfl
@[simp] theorem escapeCoded_srcLen (s : State) :
    (escapeCoded s).srcLen = s.srcLen := rfl
@[simp] theorem escapeCoded_codLen (s : State) :
    (escapeCoded s).codLen = s.codLen := rfl
@[simp] theorem escapeCoded_txbLen (s : State) :
    (escapeCoded s).txbLen = BitVec.ofNat 32 (escape (codBytes s)).length := rfl
@[simp] theorem escapeCoded_sesLen (s : State) :
    (escapeCoded s).sesLen = s.sesLen := rfl
@[simp] theorem escapeCoded_cursor (s : State) :
    (escapeCoded s).cursor = s.cursor := rfl
@[simp] theorem escapeCoded_orbSize (s : State) :
    (escapeCoded s).orbSize = s.orbSize := rfl
@[simp] theorem escapeCoded_phase (s : State) :
    (escapeCoded s).phase = s.phase := rfl
@[simp] theorem escapeCoded_par (s : State) :
    (escapeCoded s).par = s.par := rfl
@[simp] theorem escapeCoded_src (s : State) :
    (escapeCoded s).src = s.src := rfl
@[simp] theorem escapeCoded_srcStale (s : State) :
    (escapeCoded s).srcStale = s.srcStale := rfl
@[simp] theorem escapeCoded_cod (s : State) :
    (escapeCoded s).cod = s.cod := rfl
@[simp] theorem escapeCoded_txb (s : State) :
    (escapeCoded s).txb = memWrite s.txb 0 (escape (codBytes s)) := rfl
@[simp] theorem escapeCoded_orb (s : State) :
    (escapeCoded s).orb = s.orb := rfl
@[simp] theorem escapeCoded_sinkAnswers (s : State) :
    (escapeCoded s).sinkAnswers = s.sinkAnswers := rfl
@[simp] theorem escapeCoded_sinkLog (s : State) :
    (escapeCoded s).sinkLog = s.sinkLog := rfl
@[simp] theorem escapeCoded_polls (s : State) :
    (escapeCoded s).polls = s.polls := rfl
@[simp] theorem escapeCoded_inputs (s : State) :
    (escapeCoded s).inputs = s.inputs := rfl
@[simp] theorem escapeCoded_responses (s : State) :
    (escapeCoded s).responses = s.responses := rfl
@[simp] theorem escapeCoded_powerOns (s : State) :
    (escapeCoded s).powerOns = s.powerOns := rfl

/-! ## `respond` -/

@[simp] theorem respond_params (r : Response) (s : State) :
    (respond r s).params = s.params := rfl
@[simp] theorem respond_cmd (r : Response) (s : State) :
    (respond r s).cmd = s.cmd := rfl
@[simp] theorem respond_status (r : Response) (s : State) :
    (respond r s).status = s.status := rfl
@[simp] theorem respond_errinfo (r : Response) (s : State) :
    (respond r s).errinfo = s.errinfo := rfl
@[simp] theorem respond_arg0 (r : Response) (s : State) :
    (respond r s).arg0 = s.arg0 := rfl
@[simp] theorem respond_res0 (r : Response) (s : State) :
    (respond r s).res0 = s.res0 := rfl
@[simp] theorem respond_cfg (r : Response) (s : State) :
    (respond r s).cfg = s.cfg := rfl
@[simp] theorem respond_srcLen (r : Response) (s : State) :
    (respond r s).srcLen = s.srcLen := rfl
@[simp] theorem respond_codLen (r : Response) (s : State) :
    (respond r s).codLen = s.codLen := rfl
@[simp] theorem respond_txbLen (r : Response) (s : State) :
    (respond r s).txbLen = s.txbLen := rfl
@[simp] theorem respond_sesLen (r : Response) (s : State) :
    (respond r s).sesLen = s.sesLen := rfl
@[simp] theorem respond_cursor (r : Response) (s : State) :
    (respond r s).cursor = s.cursor := rfl
@[simp] theorem respond_orbSize (r : Response) (s : State) :
    (respond r s).orbSize = s.orbSize := rfl
@[simp] theorem respond_phase (r : Response) (s : State) :
    (respond r s).phase = s.phase := rfl
@[simp] theorem respond_par (r : Response) (s : State) :
    (respond r s).par = s.par := rfl
@[simp] theorem respond_src (r : Response) (s : State) :
    (respond r s).src = s.src := rfl
@[simp] theorem respond_srcStale (r : Response) (s : State) :
    (respond r s).srcStale = s.srcStale := rfl
@[simp] theorem respond_cod (r : Response) (s : State) :
    (respond r s).cod = s.cod := rfl
@[simp] theorem respond_txb (r : Response) (s : State) :
    (respond r s).txb = s.txb := rfl
@[simp] theorem respond_orb (r : Response) (s : State) :
    (respond r s).orb = s.orb := rfl
@[simp] theorem respond_sinkAnswers (r : Response) (s : State) :
    (respond r s).sinkAnswers = s.sinkAnswers := rfl
@[simp] theorem respond_sinkLog (r : Response) (s : State) :
    (respond r s).sinkLog = s.sinkLog := rfl
@[simp] theorem respond_polls (r : Response) (s : State) :
    (respond r s).polls = s.polls := rfl
@[simp] theorem respond_inputs (r : Response) (s : State) :
    (respond r s).inputs = s.inputs := rfl
@[simp] theorem respond_responses (r : Response) (s : State) :
    (respond r s).responses = s.responses ++ [r] := rfl
@[simp] theorem respond_powerOns (r : Response) (s : State) :
    (respond r s).powerOns = s.powerOns := rfl

/-! ## `acceptCmd` -/

@[simp] theorem acceptCmd_params (w : Word) (s : State) :
    (acceptCmd w s).params = s.params := rfl
@[simp] theorem acceptCmd_cmd (w : Word) (s : State) :
    (acceptCmd w s).cmd = w := rfl
@[simp] theorem acceptCmd_status (w : Word) (s : State) :
    (acceptCmd w s).status = s.status := rfl
@[simp] theorem acceptCmd_errinfo (w : Word) (s : State) :
    (acceptCmd w s).errinfo = s.errinfo := rfl
@[simp] theorem acceptCmd_arg0 (w : Word) (s : State) :
    (acceptCmd w s).arg0 = s.arg0 := rfl
@[simp] theorem acceptCmd_res0 (w : Word) (s : State) :
    (acceptCmd w s).res0 = s.res0 := rfl
@[simp] theorem acceptCmd_cfg (w : Word) (s : State) :
    (acceptCmd w s).cfg = s.cfg := rfl
@[simp] theorem acceptCmd_srcLen (w : Word) (s : State) :
    (acceptCmd w s).srcLen = s.srcLen := rfl
@[simp] theorem acceptCmd_codLen (w : Word) (s : State) :
    (acceptCmd w s).codLen = s.codLen := rfl
@[simp] theorem acceptCmd_txbLen (w : Word) (s : State) :
    (acceptCmd w s).txbLen = s.txbLen := rfl
@[simp] theorem acceptCmd_sesLen (w : Word) (s : State) :
    (acceptCmd w s).sesLen = s.sesLen := rfl
@[simp] theorem acceptCmd_cursor (w : Word) (s : State) :
    (acceptCmd w s).cursor = s.cursor := rfl
@[simp] theorem acceptCmd_orbSize (w : Word) (s : State) :
    (acceptCmd w s).orbSize = s.orbSize := rfl
@[simp] theorem acceptCmd_phase (w : Word) (s : State) :
    (acceptCmd w s).phase = s.phase := rfl
@[simp] theorem acceptCmd_par (w : Word) (s : State) :
    (acceptCmd w s).par = s.par := rfl
@[simp] theorem acceptCmd_src (w : Word) (s : State) :
    (acceptCmd w s).src = s.src := rfl
@[simp] theorem acceptCmd_srcStale (w : Word) (s : State) :
    (acceptCmd w s).srcStale = s.srcStale := rfl
@[simp] theorem acceptCmd_cod (w : Word) (s : State) :
    (acceptCmd w s).cod = s.cod := rfl
@[simp] theorem acceptCmd_txb (w : Word) (s : State) :
    (acceptCmd w s).txb = s.txb := rfl
@[simp] theorem acceptCmd_orb (w : Word) (s : State) :
    (acceptCmd w s).orb = s.orb := rfl
@[simp] theorem acceptCmd_sinkAnswers (w : Word) (s : State) :
    (acceptCmd w s).sinkAnswers = s.sinkAnswers := rfl
@[simp] theorem acceptCmd_sinkLog (w : Word) (s : State) :
    (acceptCmd w s).sinkLog = s.sinkLog := rfl
@[simp] theorem acceptCmd_polls (w : Word) (s : State) :
    (acceptCmd w s).polls = s.polls := rfl
@[simp] theorem acceptCmd_inputs (w : Word) (s : State) :
    (acceptCmd w s).inputs = s.inputs := rfl
@[simp] theorem acceptCmd_responses (w : Word) (s : State) :
    (acceptCmd w s).responses = s.responses ++ [.ok 0] := rfl
@[simp] theorem acceptCmd_powerOns (w : Word) (s : State) :
    (acceptCmd w s).powerOns = s.powerOns := rfl

/-! ## `popInput` -/

@[simp] theorem popInput_params (s : State) :
    (popInput s).params = s.params := rfl
@[simp] theorem popInput_cmd (s : State) :
    (popInput s).cmd = s.cmd := rfl
@[simp] theorem popInput_status (s : State) :
    (popInput s).status = s.status := rfl
@[simp] theorem popInput_errinfo (s : State) :
    (popInput s).errinfo = s.errinfo := rfl
@[simp] theorem popInput_arg0 (s : State) :
    (popInput s).arg0 = s.arg0 := rfl
@[simp] theorem popInput_res0 (s : State) :
    (popInput s).res0 = s.res0 := rfl
@[simp] theorem popInput_cfg (s : State) :
    (popInput s).cfg = s.cfg := rfl
@[simp] theorem popInput_srcLen (s : State) :
    (popInput s).srcLen = s.srcLen := rfl
@[simp] theorem popInput_codLen (s : State) :
    (popInput s).codLen = s.codLen := rfl
@[simp] theorem popInput_txbLen (s : State) :
    (popInput s).txbLen = s.txbLen := rfl
@[simp] theorem popInput_sesLen (s : State) :
    (popInput s).sesLen = s.sesLen := rfl
@[simp] theorem popInput_cursor (s : State) :
    (popInput s).cursor = s.cursor := rfl
@[simp] theorem popInput_orbSize (s : State) :
    (popInput s).orbSize = s.orbSize := rfl
@[simp] theorem popInput_phase (s : State) :
    (popInput s).phase = s.phase := rfl
@[simp] theorem popInput_par (s : State) :
    (popInput s).par = s.par := rfl
@[simp] theorem popInput_src (s : State) :
    (popInput s).src = s.src := rfl
@[simp] theorem popInput_srcStale (s : State) :
    (popInput s).srcStale = s.srcStale := rfl
@[simp] theorem popInput_cod (s : State) :
    (popInput s).cod = s.cod := rfl
@[simp] theorem popInput_txb (s : State) :
    (popInput s).txb = s.txb := rfl
@[simp] theorem popInput_orb (s : State) :
    (popInput s).orb = s.orb := rfl
@[simp] theorem popInput_sinkAnswers (s : State) :
    (popInput s).sinkAnswers = s.sinkAnswers := rfl
@[simp] theorem popInput_sinkLog (s : State) :
    (popInput s).sinkLog = s.sinkLog := rfl
@[simp] theorem popInput_polls (s : State) :
    (popInput s).polls = s.polls := rfl
@[simp] theorem popInput_inputs (s : State) :
    (popInput s).inputs = s.inputs.drop 1 := rfl
@[simp] theorem popInput_responses (s : State) :
    (popInput s).responses = s.responses := rfl
@[simp] theorem popInput_powerOns (s : State) :
    (popInput s).powerOns = s.powerOns := rfl

end Sys2Proof.Machine
end

