-- ==== Sys2Proof/Laws/Memory.lean ====
section
/-! SUPPORT. The laws of the byte memories: what a read gives after a write, what a run of bytes is, and that every
operation keeps the canonical form. -/

namespace Sys2Proof.Machine

/-! ## Reading one byte -/

/-- Two memories whose lists, cut off below `a`, are the same read the same at `a`. -/
theorem memAt_congr {m m' : Memory} {a : Nat}
    (h : m.dropWhile (fun c => decide (c.1 < a)) = m'.dropWhile (fun c => decide (c.1 < a))) :
    memAt m a = memAt m' a := by
  simp only [memAt, h]

@[simp] theorem memAt_nil (a : Nat) : memAt [] a = none := rfl

theorem memAt_cons_lt {x : Nat} {b : Byte} {m : Memory} {a : Nat} (h : x < a) :
    memAt ((x, b) :: m) a = memAt m a :=
  memAt_congr (by simp [h])

theorem memAt_cons_ge {x : Nat} {b : Byte} {m : Memory} {a : Nat} (h : a ≤ x) :
    memAt ((x, b) :: m) a = if x = a then some b else none := by
  have : ¬ x < a := by omega
  simp [memAt, this]

/-- A prefix that lies below `a` does not matter to a read at `a`. -/
theorem memAt_append_below {l m : Memory} {a : Nat} (h : ∀ c ∈ l, c.1 < a) :
    memAt (l ++ m) a = memAt m a := by
  induction l with
  | nil => rfl
  | cons c l ih =>
    obtain ⟨x, b⟩ := c
    have hx : x < a := h (x, b) (by simp)
    rw [List.cons_append, memAt_cons_lt hx]
    exact ih (fun c hc => h c (by simp [hc]))

/-- Entries below a bound that `a` is not below do not matter to a read at `a`. -/
theorem memAt_filter_ge {m : Memory} {bound a : Nat} (h : bound ≤ a) :
    memAt (m.filter (fun c => decide (bound ≤ c.1))) a = memAt m a := by
  induction m with
  | nil => rfl
  | cons c m ih =>
    obtain ⟨x, b⟩ := c
    rcases Nat.lt_or_ge x a with hx | hx
    · rw [memAt_cons_lt hx]
      by_cases hb : bound ≤ x
      · simp only [List.filter_cons, hb, decide_true, if_true, memAt_cons_lt hx, ih]
      · simp only [List.filter_cons, hb, decide_false, Bool.false_eq_true, if_false, ih]
    · have hb : bound ≤ x := by omega
      simp only [List.filter_cons, hb, decide_true, if_true, memAt_cons_ge hx]

/-- No entry of a list that lies above `a` is read at `a`. -/
theorem memAt_above {m : Memory} {a : Nat} (h : ∀ c ∈ m, a < c.1) : memAt m a = none := by
  cases m with
  | nil => rfl
  | cons c m =>
    obtain ⟨x, b⟩ := c
    have hx : a < x := h (x, b) (by simp)
    rw [memAt_cons_ge (by omega), if_neg (by omega)]

/-- In the canonical form, what stands at or above a bound does not matter to a read below it. -/
theorem memAt_filter_lt_append {m r : Memory} {bound a : Nat} (hm : m.wf) (h : a < bound) (hr : ∀ c ∈ r, bound ≤ c.1) :
    memAt (m.filter (fun c => decide (c.1 < bound)) ++ r) a = memAt m a := by
  induction m with
  | nil =>
    simp only [List.filter_nil, List.nil_append, memAt_nil]
    exact memAt_above (fun c hc => by have := hr c hc; omega)
  | cons c m ih =>
    obtain ⟨x, b⟩ := c
    have hm' : Memory.wf m := (List.pairwise_cons.mp hm).2
    have hgt : ∀ c ∈ m, x < c.1 := (List.pairwise_cons.mp hm).1
    by_cases hx : x < bound
    · simp only [List.filter_cons, hx, decide_true, if_true, List.cons_append]
      rcases Nat.lt_or_ge x a with hxa | hxa
      · rw [memAt_cons_lt hxa, memAt_cons_lt hxa, ih hm']
      · rw [memAt_cons_ge hxa, memAt_cons_ge hxa]
    · simp only [List.filter_cons, hx, decide_false, Bool.false_eq_true, if_false]
      have hnone : m.filter (fun c => decide (c.1 < bound)) = [] := by
        rw [List.filter_eq_nil_iff]
        intro c hc
        have := hgt c hc
        simp only [decide_eq_true_eq]
        omega
      rw [hnone, List.nil_append, memAt_above (fun c hc => by have := hr c hc; omega),
        memAt_cons_ge (by omega), if_neg (by omega)]

/-! ## The cells of a run -/

theorem cellsFrom_bounds (bs : List Byte) (base : Nat) :
    ∀ c ∈ cellsFrom base bs, base ≤ c.1 ∧ c.1 < base + bs.length := by
  induction bs generalizing base with
  | nil => simp [cellsFrom]
  | cons b bs ih =>
    intro c hc
    rcases List.mem_cons.mp hc with rfl | hc
    · simp
    · have := ih (base + 1) c hc
      simp only [List.length_cons]
      omega

theorem cellsFrom_wf (bs : List Byte) (base : Nat) : Memory.wf (cellsFrom base bs) := by
  induction bs generalizing base with
  | nil => exact List.Pairwise.nil
  | cons b bs ih =>
    refine List.pairwise_cons.mpr ⟨fun c hc => ?_, ih (base + 1)⟩
    have := cellsFrom_bounds bs (base + 1) c hc
    simp only
    omega

theorem memAt_cellsFrom_append (bs : List Byte) (base i : Nat) (r : Memory) (h : i < bs.length) :
    memAt (cellsFrom base bs ++ r) (base + i) = some bs[i] := by
  induction bs generalizing base i with
  | nil => simp at h
  | cons b bs ih =>
    cases i with
    | zero => simp [cellsFrom, memAt_cons_ge]
    | succ i =>
      rw [cellsFrom, List.cons_append, memAt_cons_lt (by omega)]
      have := ih (base + 1) i (by simpa using h)
      rw [show base + (i + 1) = base + 1 + i by omega, this]
      simp

/-! ## Reading after a write -/

/-- A byte of the run just written reads back. -/
theorem memAt_memWrite_inside (m : Memory) (base i : Nat) (bs : List Byte) (h : i < bs.length) :
    memAt (memWrite m base bs) (base + i) = some bs[i] := by
  rw [memWrite, List.append_assoc, memAt_append_below]
  · exact memAt_cellsFrom_append bs base i _ h
  · intro c hc
    have := (List.mem_filter.mp hc).2
    simp only [decide_eq_true_eq] at this
    omega

/-- An offset above the run reads as before. -/
theorem memAt_memWrite_above (m : Memory) (base a : Nat) (bs : List Byte) (h : base + bs.length ≤ a) :
    memAt (memWrite m base bs) a = memAt m a := by
  rw [memWrite, memAt_append_below]
  · exact memAt_filter_ge h
  · intro c hc
    rcases List.mem_append.mp hc with hc | hc
    · have := (List.mem_filter.mp hc).2
      simp only [decide_eq_true_eq] at this
      omega
    · have := cellsFrom_bounds bs base c hc
      omega

/-- An offset below the run reads as before, in the canonical form. -/
theorem memAt_memWrite_below {m : Memory} (hm : m.wf) (base a : Nat) (bs : List Byte) (h : a < base) :
    memAt (memWrite m base bs) a = memAt m a := by
  rw [memWrite, List.append_assoc]
  refine memAt_filter_lt_append hm h (fun c hc => ?_)
  rcases List.mem_append.mp hc with hc | hc
  · exact (cellsFrom_bounds bs base c hc).1
  · have := (List.mem_filter.mp hc).2
    simp only [decide_eq_true_eq] at this
    omega

/-- Every offset outside the run reads as before, in the canonical form. -/
theorem memAt_memWrite_outside {m : Memory} (hm : m.wf) (base a : Nat) (bs : List Byte)
    (h : a < base ∨ base + bs.length ≤ a) : memAt (memWrite m base bs) a = memAt m a :=
  h.elim (memAt_memWrite_below hm base a bs) (memAt_memWrite_above m base a bs)

/-! ## The canonical form is kept -/

theorem memWrite_wf {m : Memory} (hm : m.wf) (base : Nat) (bs : List Byte) : Memory.wf (memWrite m base bs) := by
  have hlow : ∀ c ∈ m.filter (fun c => decide (c.1 < base)), c.1 < base := fun c hc => by
    simpa using (List.mem_filter.mp hc).2
  have hhigh : ∀ c ∈ m.filter (fun c => decide (base + bs.length ≤ c.1)), base + bs.length ≤ c.1 := fun c hc => by
    simpa using (List.mem_filter.mp hc).2
  refine List.pairwise_append.mpr ⟨List.pairwise_append.mpr ⟨hm.filter _, cellsFrom_wf bs base, ?_⟩, hm.filter _, ?_⟩
  · intro c hc d hd
    have := hlow c hc
    have := cellsFrom_bounds bs base d hd
    omega
  · intro c hc d hd
    have := hhigh d hd
    rcases List.mem_append.mp hc with hc | hc
    · have := hlow c hc
      omega
    · have := cellsFrom_bounds bs base c hc
      omega

/-- A write inside a bound lists nothing at or above the bound. -/
theorem memWrite_bound {m : Memory} {bound base : Nat} {bs : List Byte} (hm : ∀ c ∈ m, c.1 < bound)
    (h : base + bs.length ≤ bound) : ∀ c ∈ memWrite m base bs, c.1 < bound := by
  intro c hc
  rcases List.mem_append.mp hc with hc | hc
  · rcases List.mem_append.mp hc with hc | hc
    · exact hm c (List.mem_filter.mp hc).1
    · have := cellsFrom_bounds bs base c hc
      omega
  · exact hm c (List.mem_filter.mp hc).1

/-! ## Runs of bytes -/

/-- The entries below `a` do not matter to a read at `a`. -/
theorem memAt_dropWhile (m : Memory) {base a : Nat} (h : base ≤ a) :
    memAt (m.dropWhile (fun c => decide (c.1 < base))) a = memAt m a := by
  induction m with
  | nil => rfl
  | cons c m ih =>
    obtain ⟨x, b⟩ := c
    by_cases hx : x < base
    · rw [List.dropWhile_cons_of_pos (by simpa using hx), memAt_cons_lt (by omega), ih]
    · rw [List.dropWhile_cons_of_neg (by simpa using hx)]

@[simp] theorem memRun_length (held : Nat → Option Byte → Byte) (m : Memory) (base n : Nat) :
    (memRun held m base n).length = n := by
  induction n generalizing m base with
  | zero => rfl
  | succ n ih => simp [memRun, ih]

/-- A run of bytes is its bytes read one by one. -/
theorem memRun_getElem (held : Nat → Option Byte → Byte) (m : Memory) (base n i : Nat) (h : i < n) :
    (memRun held m base n)[i]'(by simpa using h) = held (base + i) (memAt m (base + i)) := by
  induction n generalizing m base i with
  | zero => omega
  | succ n ih =>
    cases i with
    | zero => simp [memRun, memAt_dropWhile m (Nat.le_refl base)]
    | succ i =>
      simp only [memRun, List.getElem_cons_succ]
      rw [ih _ (base + 1) i (by omega), memAt_dropWhile m (by omega), show base + 1 + i = base + (i + 1) by omega]

theorem memRun_eq_map (held : Nat → Option Byte → Byte) (m : Memory) (base n : Nat) :
    memRun held m base n = (List.range n).map (fun i => held (base + i) (memAt m (base + i))) := by
  refine List.ext_getElem (by simp) (fun i h₁ h₂ => ?_)
  rw [memRun_getElem held m base n i (by simpa using h₁)]
  simp

@[simp] theorem bytesAt_length (b : ByteSpace) (base n : Nat) (s : State) : (bytesAt b base n s).length = n :=
  memRun_length _ _ _ _

theorem bytesAt_getElem (b : ByteSpace) (base n i : Nat) (s : State) (h : i < n) :
    (bytesAt b base n s)[i]'(by simpa using h) = byteAt b (base + i) s :=
  memRun_getElem _ _ _ _ _ h

theorem bytesAt_eq_map (b : ByteSpace) (base n : Nat) (s : State) :
    bytesAt b base n s = (List.range n).map (fun i => byteAt b (base + i) s) :=
  memRun_eq_map _ _ _ _

/-- Runs read the same where every byte of them does. -/
theorem bytesAt_congr {b : ByteSpace} {base n : Nat} {s t : State}
    (h : ∀ a, base ≤ a → a < base + n → byteAt b a t = byteAt b a s) : bytesAt b base n t = bytesAt b base n s := by
  rw [bytesAt_eq_map, bytesAt_eq_map]
  refine List.map_congr_left (fun i hi => h (base + i) (by omega) ?_)
  have := List.mem_range.mp hi
  omega

/-! ## Memories of a state -/

@[simp] theorem memOf_setMem_self (b : ByteSpace) (m : Memory) (s : State) : memOf b (setMem b m s) = m := by
  cases b <;> rfl

theorem memOf_setMem_ne {b d : ByteSpace} (h : d ≠ b) (m : Memory) (s : State) : memOf d (setMem b m s) = memOf d s := by
  cases b <;> cases d <;> first | rfl | exact absurd rfl h

@[simp] theorem setMem_powerOns (b : ByteSpace) (m : Memory) (s : State) : (setMem b m s).powerOns = s.powerOns := by
  cases b <;> rfl

@[simp] theorem setMem_srcStale (b : ByteSpace) (m : Memory) (s : State) : (setMem b m s).srcStale = s.srcStale := by
  cases b <;> rfl

@[simp] theorem memOf_markWritten (b d : ByteSpace) (base n : Nat) (s : State) :
    memOf d (markWritten b base n s) = memOf d s := by
  cases b <;> cases d <;> rfl

@[simp] theorem markWritten_powerOns (b : ByteSpace) (base n : Nat) (s : State) :
    (markWritten b base n s).powerOns = s.powerOns := by
  cases b <;> rfl

@[simp] theorem heldByte_none (b : ByteSpace) (s : State) (a : Nat) :
    heldByte b s a none = Config.powerOnByte s.powerOns b a := rfl

theorem heldByte_some (b : ByteSpace) (s : State) (a : Nat) (x : Byte) :
    heldByte b s a (some x) = if isStale b a s then Config.staleByte b a x else x := rfl

/-- What a reader finds depends on the state only by the power-on and by whether the byte is from before the last RESET. -/
theorem heldByte_congr {b : ByteSpace} {s t : State} {a : Nat} (hp : t.powerOns = s.powerOns)
    (hs : isStale b a t = isStale b a s) (w : Option Byte) : heldByte b t a w = heldByte b s a w := by
  cases w <;> simp only [heldByte, hp, hs]

/-- Outside the memory SRC no byte is stale. -/
theorem isStale_of_ne_src {b : ByteSpace} (h : b ≠ .src) (a : Nat) (s : State) : isStale b a s = false := by
  cases b
  · exact absurd rfl h
  all_goals rfl

theorem isStale_congr {b : ByteSpace} {s t : State} (hs : b = .src → t.srcStale = s.srcStale) (a : Nat) :
    isStale b a t = isStale b a s := by
  cases b
  · simp only [isStale, hs rfl]
  all_goals rfl

/-- No byte of a run just written is stale. -/
theorem isStale_storeBytes_inside (b : ByteSpace) (base a : Nat) (bs : List Byte) (s : State)
    (h : base ≤ a ∧ a < base + bs.length) : isStale b a (storeBytes b base bs s) = false := by
  cases b
  · simp only [storeBytes, markWritten, isStale, List.mem_filter, decide_eq_false_iff_not, decide_eq_true_eq]
    omega
  all_goals rfl

/-- A write leaves it as it was whether a byte outside its run is stale. -/
theorem isStale_storeBytes_outside (b d : ByteSpace) (base a : Nat) (bs : List Byte) (s : State)
    (h : d ≠ b ∨ a < base ∨ base + bs.length ≤ a) : isStale d a (storeBytes b base bs s) = isStale d a s := by
  cases d
  · cases b
    · have h' : a < base ∨ base + bs.length ≤ a := h.resolve_left (fun hne => hne rfl)
      simp [storeBytes, markWritten, isStale, setMem, h']
    all_goals rfl
  all_goals rfl

/-- A byte reads the same in two states that hold the same memory of the same power-on, and of the same RESET where it is SRC. -/
theorem byteAt_congr {b : ByteSpace} {s t : State} (hm : memOf b t = memOf b s) (hp : t.powerOns = s.powerOns)
    (hs : b = .src → t.srcStale = s.srcStale) (a : Nat) : byteAt b a t = byteAt b a s := by
  simp only [byteAt, hm, heldByte_congr hp (isStale_congr hs a)]

/-- After `rst` every byte is a power-on byte. -/
theorem byteAt_of_unwritten {b : ByteSpace} {s : State} (hm : memOf b s = []) (a : Nat) :
    byteAt b a s = Config.powerOnByte s.powerOns b a := by
  simp [byteAt, hm]

/-- The bytes of a run just stored. -/
theorem byteAt_storeBytes_inside (b : ByteSpace) (base i : Nat) (bs : List Byte) (s : State) (h : i < bs.length) :
    byteAt b (base + i) (storeBytes b base bs s) = bs[i] := by
  have hw : memAt (memOf b (storeBytes b base bs s)) (base + i) = some bs[i] := by
    rw [storeBytes, memOf_markWritten, memOf_setMem_self, memAt_memWrite_inside _ _ _ _ h]
  rw [byteAt, hw, heldByte_some, isStale_storeBytes_inside b base (base + i) bs s (by omega)]
  simp

/-- Whether a byte outside a run just stored reads as before is a matter of the memory's list alone. -/
theorem byteAt_storeBytes_of_memAt {b d : ByteSpace} {base a : Nat} {bs : List Byte} {s : State}
    (h : d ≠ b ∨ a < base ∨ base + bs.length ≤ a)
    (hm : memAt (memOf d (storeBytes b base bs s)) a = memAt (memOf d s) a) :
    byteAt d a (storeBytes b base bs s) = byteAt d a s := by
  rw [byteAt, hm, byteAt]
  exact heldByte_congr (by simp [storeBytes]) (isStale_storeBytes_outside b d base a bs s h) _

/-- The bytes above a run just stored. -/
theorem byteAt_storeBytes_above (b : ByteSpace) (base a : Nat) (bs : List Byte) (s : State) (h : base + bs.length ≤ a) :
    byteAt b a (storeBytes b base bs s) = byteAt b a s :=
  byteAt_storeBytes_of_memAt (.inr (.inr h)) (by simp [storeBytes, memAt_memWrite_above _ _ _ _ h])

/-- The bytes outside a run just stored, in the canonical form. -/
theorem byteAt_storeBytes_outside {b : ByteSpace} {s : State} (hm : (memOf b s).wf) (base a : Nat) (bs : List Byte)
    (h : a < base ∨ base + bs.length ≤ a) : byteAt b a (storeBytes b base bs s) = byteAt b a s :=
  byteAt_storeBytes_of_memAt (.inr h) (by simp [storeBytes, memAt_memWrite_outside hm base a bs h])

/-- The other memories are untouched by a store. -/
theorem byteAt_storeBytes_other {b d : ByteSpace} (hd : d ≠ b) (base a : Nat) (bs : List Byte) (s : State) :
    byteAt d a (storeBytes b base bs s) = byteAt d a s :=
  byteAt_storeBytes_of_memAt (.inl hd) (by simp [storeBytes, memOf_setMem_ne hd])

/-- Every memory operation keeps the canonical form. -/
theorem storeBytes_wf {b : ByteSpace} {s : State} (hm : (memOf b s).wf) (base : Nat) (bs : List Byte) :
    (memOf b (storeBytes b base bs s)).wf := by
  rw [storeBytes, memOf_markWritten, memOf_setMem_self]
  exact memWrite_wf hm base bs

/-- A store keeps the list of stale offsets in canonical form. -/
theorem storeBytes_srcStale_wf {s : State} (h : s.srcStale.Pairwise (fun a b => a < b)) (b : ByteSpace) (base : Nat)
    (bs : List Byte) : (storeBytes b base bs s).srcStale.Pairwise (fun a b => a < b) := by
  cases b
  · exact h.filter _
  all_goals exact h

/-- RESET lists the offsets written so far in canonical form. -/
theorem doReset_srcStale_wf {s : State} (h : s.src.wf) : (doReset s).srcStale.Pairwise (fun a b => a < b) :=
  List.pairwise_map.mpr h

/-- The memories of the reset state are in canonical form. -/
theorem reset_memories_wf (b : ByteSpace) : (memOf b State.reset).wf := by
  cases b <;> exact List.Pairwise.nil

end Sys2Proof.Machine
end

