-- ==== Sys2Proof/Laws/Command.lean ====
section
/-! SUPPORT. What each shared operation of the commands can do, said once: the common check, a poll, a unit write, one pass of
the sequencer, its loop, and one request. Proofs cite these and do not unfold the operations. -/

namespace Sys2Proof.Machine

/-- The common check (R220): either FAULT = 1 and the command is refused, or its body runs. -/
theorem unlessFaulted_cases (s : State) (body : State → Host.Outcome State Fault Refusal) :
    (s.status.fault = true ∧ unlessFaulted s body = .next (finishError .faulted s)) ∨
      (s.status.fault = false ∧ unlessFaulted s body = body s) := by
  cases h : s.status.fault
  · exact .inr ⟨rfl, by simp [unlessFaulted, h]⟩
  · exact .inl ⟨rfl, by simp [unlessFaulted, h]⟩

theorem unlessFaulted_of_clear {s : State} (h : s.status.fault = false)
    (body : State → Host.Outcome State Fault Refusal) : unlessFaulted s body = body s := by
  simp [unlessFaulted, h]

theorem unlessFaulted_of_fault {s : State} (h : s.status.fault = true)
    (body : State → Host.Outcome State Fault Refusal) : unlessFaulted s body = .next (finishError .faulted s) := by
  simp [unlessFaulted, h]

/-- A poll the environment has fixed an answer for. -/
theorem sinkPoll_of_answer {s : State} {answer : Bool} {later : List Bool} (h : s.sinkAnswers = answer :: later) :
    sinkPoll s = (answer, { s with sinkAnswers := later, polls := s.polls + 1 }) := by
  simp [sinkPoll, h]

/-- `Poll` (R172): either the sink was ready and the command goes on, or the command has ended with ST_BUSY. -/
theorem pollOrBusy_cases (s : State) :
    ((sinkPoll s).1 = true ∧ pollOrBusy s = .goesOn (sinkPoll s).2) ∨
      ((sinkPoll s).1 = false ∧ pollOrBusy s = .ended (finishWith .busy (sinkPoll s).2)) := by
  cases h : (sinkPoll s).1
  · exact .inr ⟨rfl, by simp [pollOrBusy, h]⟩
  · exact .inl ⟨rfl, by simp [pollOrBusy, h]⟩

/-- `EmitUnit` (R163): either the unit fits and is written, and handed off at the threshold, or the command has ended with
EC_ORB_OVERFLOW. -/
theorem emitUnit_cases (len : Nat) (gen : Word → List Byte × Word) (s : State) :
    (s.orbSize.toNat + len ≤ s.params.orbMax ∧
      emitUnit len gen s =
        .goesOn (autoHandoff (orbWrite (gen s.phase).1 { s with phase := (gen s.phase).2 }))) ∨
      (s.params.orbMax < s.orbSize.toNat + len ∧
        emitUnit len gen s = .ended (raiseFault .orbOverflow (BitVec.ofNat 32 (s.orbSize.toNat + len)) s)) := by
  rcases Nat.lt_or_ge s.params.orbMax (s.orbSize.toNat + len) with h | h
  · refine .inr ⟨h, ?_⟩
    have : ¬ s.orbSize.toNat + len ≤ s.params.orbMax := by omega
    simp [emitUnit, orbHasRoom, this]
  · exact .inl ⟨h, by simp [emitUnit, orbHasRoom, h]⟩

/-- A pass that emits one unit (R172): the poll was busy, the unit did not fit, or it was written and MSTATE moved on. -/
theorem unitPass_cases (n len : Nat) (gen : Word → List Byte × Word) (next : MState) (s : State) :
    (∃ t, pollOrBusy s = .ended t ∧ unitPass n len gen next s = .done t) ∨
      (∃ s1 t, pollOrBusy s = .goesOn s1 ∧ emitUnit len gen s1 = .ended t ∧ unitPass n len gen next s = .done t) ∨
      (∃ s1 s2, pollOrBusy s = .goesOn s1 ∧ emitUnit len gen s1 = .goesOn s2 ∧
        unitPass n len gen next s = .again n (setMState next s2)) := by
  cases hp : pollOrBusy s with
  | ended t => exact .inl ⟨t, rfl, by simp [unitPass, hp]⟩
  | goesOn s1 =>
    cases he : emitUnit len gen s1 with
    | ended t => exact .inr (.inl ⟨s1, t, rfl, he, by simp [unitPass, hp, he]⟩)
    | goesOn s2 => exact .inr (.inr ⟨s1, s2, rfl, he, by simp [unitPass, hp, he]⟩)

/-- The data byte of a pass (R179): the poll was busy, the byte is an unescaped sync value, its frame did not fit, or the frame was
written and CURSOR moved on. -/
theorem dataBytePass_cases (n : Nat) (s : State) :
    (∃ t, pollOrBusy s = .ended t ∧ dataBytePass n s = .done t) ∨
      (∃ s1, pollOrBusy s = .goesOn s1 ∧ sessionByte s1 = Config.syncByte ∧
        dataBytePass n s = .done (raiseFault .unescapedSync s1.cursor s1)) ∨
      (∃ s1 t, pollOrBusy s = .goesOn s1 ∧ sessionByte s1 ≠ Config.syncByte ∧
        emitUnit (frameNs s1.params) (dataFrame s1.params s1.cfg (sessionByte s1)) s1 = .ended t ∧
        dataBytePass n s = .done t) ∨
      (∃ s1 s2, pollOrBusy s = .goesOn s1 ∧ sessionByte s1 ≠ Config.syncByte ∧
        emitUnit (frameNs s1.params) (dataFrame s1.params s1.cfg (sessionByte s1)) s1 = .goesOn s2 ∧
        dataBytePass n s = .again (n + 1) { s2 with cursor := s2.cursor + 1 }) := by
  cases hp : pollOrBusy s with
  | ended t => exact .inl ⟨t, rfl, by simp [dataBytePass, hp]⟩
  | goesOn s1 =>
    by_cases hb : sessionByte s1 = Config.syncByte
    · exact .inr (.inl ⟨s1, rfl, hb, by simp only [dataBytePass, hp, if_pos hb]⟩)
    · cases he : emitUnit (frameNs s1.params) (dataFrame s1.params s1.cfg (sessionByte s1)) s1 with
      | ended t => exact .inr (.inr (.inl ⟨s1, t, rfl, hb, he, by simp only [dataBytePass, hp, he, if_neg hb]⟩))
      | goesOn s2 => exact .inr (.inr (.inr ⟨s1, s2, rfl, hb, he, by simp only [dataBytePass, hp, he, if_neg hb]⟩))

/-- The pass in M_DATA (R172): the end of the data, before or after a byte of this call, the bound, or a data byte. -/
theorem dataPass_cases (n : Nat) (s : State) :
    (s.cursor = s.sesLen ∧ 0 < n ∧ dataPass n s = .done (finishWith .inProgress s)) ∨
      (s.cursor = s.sesLen ∧ n = 0 ∧ dataPass n s = .again n (setMState .trailer s)) ∨
      (s.cursor ≠ s.sesLen ∧ n = Config.pumpMax ∧ dataPass n s = .done (finishWith .inProgress s)) ∨
      (s.cursor ≠ s.sesLen ∧ n ≠ Config.pumpMax ∧ dataPass n s = dataBytePass n s) := by
  by_cases hc : s.cursor = s.sesLen
  · rcases Nat.eq_zero_or_pos n with rfl | hn
    · exact .inr (.inl ⟨hc, rfl, by simp [dataPass, hc]⟩)
    · exact .inl ⟨hc, hn, by simp [dataPass, hc, hn]⟩
  · by_cases hn : n = Config.pumpMax
    · exact .inr (.inr (.inl ⟨hc, hn, by simp [dataPass, hc, hn]⟩))
    · refine .inr (.inr (.inr ⟨hc, hn, ?_⟩))
      simp only [dataPass, hc, hn, if_false]

/-- The pass in M_DRAIN (R172): nothing is pending, the poll was busy, or the final flush was made. -/
theorem drainPass_cases (n : Nat) (s : State) :
    (s.orbSize = 0 ∧ drainPass n s = .again n (setMState .finish s)) ∨
      (∃ t, s.orbSize ≠ 0 ∧ pollOrBusy s = .ended t ∧ drainPass n s = .done t) ∨
      (∃ s1, s.orbSize ≠ 0 ∧ pollOrBusy s = .goesOn s1 ∧ drainPass n s = .again n (setMState .finish (orbFlush s1))) := by
  by_cases h : s.orbSize = 0
  · exact .inl ⟨h, by simp [drainPass, h]⟩
  · cases hp : pollOrBusy s with
    | ended t => exact .inr (.inl ⟨t, h, rfl, by simp only [drainPass, hp, if_neg h]⟩)
    | goesOn s1 => exact .inr (.inr ⟨s1, h, rfl, by simp only [drainPass, hp, if_neg h]⟩)

/-- The pass in M_FINISH (R172): the poll was busy, or the session has ended. -/
theorem finishPass_cases (s : State) :
    (∃ t, pollOrBusy s = .ended t ∧ finishPass s = .done t) ∨
      (∃ s1, pollOrBusy s = .goesOn s1 ∧
        finishPass s =
          .done (finishWith (if s1.status.cancelling then .cancelled else .complete) (endSession s1))) := by
  cases hp : pollOrBusy s with
  | ended t => exact .inl ⟨t, rfl, by simp [finishPass, hp]⟩
  | goesOn s1 => exact .inr ⟨s1, rfl, by simp [finishPass, hp]⟩

/-- The loop's induction: what every further pass keeps of `P` and every last pass turns into `Q` holds where the loop answers a
next state. -/
theorem sequencerLoop_induction {P : Nat → State → Prop} {Q : State → Prop}
    (again : ∀ n s n' s', P n s → sequencerPass n s = .again n' s' → P n' s')
    (done : ∀ n s t, P n s → sequencerPass n s = .done t → Q t)
    {passes n : Nat} {s t : State} (h : P n s) (hr : sequencerLoop passes n s = .next t) : Q t := by
  induction passes generalizing n s with
  | zero => cases hr
  | succ k ih =>
    cases hp : sequencerPass n s with
    | again n' s' =>
      simp only [sequencerLoop, hp] at hr
      exact ih (again n s n' s' h hp) hr
    | done t' =>
      simp only [sequencerLoop, hp] at hr
      cases hr
      exact done n s _ h hp
    | idle =>
      simp only [sequencerLoop, hp] at hr
      cases hr

/-- One more pass of the loop. -/
theorem sequencerLoop_again {passes n n' : Nat} {s s' : State} (h : sequencerPass n s = .again n' s') :
    sequencerLoop (passes + 1) n s = sequencerLoop passes n' s' := by
  simp [sequencerLoop, h]

theorem sequencerLoop_done {passes n : Nat} {s t : State} (h : sequencerPass n s = .done t) :
    sequencerLoop (passes + 1) n s = .next t := by
  simp [sequencerLoop, h]

/-- A step with no pending event (R6). -/
theorem step_of_no_input {s : State} (h : s.inputs = []) : step s = .next s := by
  simp [step, serveNext, h]

/-- A step whose next event is a port request. -/
theorem step_of_request {s : State} {r : BitVec 64} {later : List Input} (h : s.inputs = .request r :: later) :
    step s = serveRequest r (popInput s) := by
  simp [step, serveNext, h]

/-- A step whose next event is a power-on reset. -/
theorem step_of_rst {s : State} {later : List Input} (h : s.inputs = .rst :: later) :
    step s = .next (powerOnReset (popInput s)) := by
  simp [step, serveNext, h]

end Sys2Proof.Machine
end

