-- ==== Sys2Proof/Laws/PerInstr.lean ====
section
/-! SUPPORT. A family of statements made per instruction: the word of a command selects exactly one row of the opcode map. -/

namespace Sys2Proof.Laws.SelectsOneRow

open Sys2Proof

/-- The word of the command selects exactly one row of the opcode map (R94). -/
def Statement (i : Instr) : Prop :=
  (opcodeTable.filter (fun row => decide (encode i &&& row.mask = row.pattern))).length = 1

theorem fecSize : Statement .fecSize := by unfold Statement; decide

theorem fecEncode : Statement .fecEncode := by unfold Statement; decide

theorem escCount : Statement .escCount := by unfold Statement; decide

theorem escEscape : Statement .escEscape := by unfold Statement; decide

theorem txStart : Statement .txStart := by unfold Statement; decide

theorem txPump : Statement .txPump := by unfold Statement; decide

theorem txCancel : Statement .txCancel := by unfold Statement; decide

/-- The low byte of TONE's word is its opcode. -/
theorem encode_tone_opcode (n : Nat) : encode (.tone n) &&& 0x000000FF = 0x00000013 := by
  apply BitVec.eq_of_toNat_eq
  simp only [encode, Instr.immediate, Instr.opcode, BitVec.toNat_and, BitVec.toNat_append]
  have h : (0x000000FF : Word).toNat = 2 ^ 8 - 1 := rfl
  rw [h, Nat.and_two_pow_sub_one_eq_mod, Nat.shiftLeft_eq, Nat.or_comm, ← Nat.shiftLeft_eq]
  rw [Nat.or_mod_two_pow]
  simp [Nat.shiftLeft_eq]

/-- A word whose low byte is TONE's opcode selects TONE's row and no other. -/
theorem selects_tone_only {w : Word} (h : w &&& 255#32 = 19#32) :
    (opcodeTable.filter (fun row => decide (w &&& row.mask = row.pattern))).length = 1 := by
  have all : w &&& 4294967295#32 = w := BitVec.and_allOnes
  have ne : ∀ k : Word, k &&& 255#32 ≠ 19#32 → ¬ w = k := fun k hk e => hk (e ▸ h)
  simp [opcodeTable, all, h, ne 1#32 (by decide), ne 2#32 (by decide), ne 3#32 (by decide),
    ne 4#32 (by decide), ne 16#32 (by decide), ne 17#32 (by decide), ne 18#32 (by decide), ne 32#32 (by decide),
    ne 127#32 (by decide)]

theorem tone (n : Nat) : Statement (.tone n) := selects_tone_only (encode_tone_opcode n)

theorem orbFlush : Statement .orbFlush := by unfold Statement; decide

theorem reset : Statement .reset := by unfold Statement; decide

end Sys2Proof.Laws.SelectsOneRow
end

