-- ==== Sys2Proof/Tests/Slice0.lean ====
section
/-! SUPPORT. The model's own tests. Expected values are the spec's: the encoding tables of 30_encoding.md and the vectors of
95_test_vectors.md, named at each test. The theorems named `witness_…` show, for each obligation with hypotheses, concrete
terms that meet them together, clause by clause. -/

namespace Sys2Proof.Tests

open Sys2Proof.Machine

set_option Elab.async false

/-! ## Well-formedness and decoding -/

/-- TONE's count has 24 bits (30_encoding.md section 2). -/
theorem test_wellFormed_refuses_a_wide_count : (Instr.tone 16777216).wellFormed = false := by decide

theorem test_wellFormed_accepts_the_widest_count : (Instr.tone 16777215).wellFormed = true := by decide

/-- The ten words of the opcode map, written out from 30_encoding.md section 3, TONE 40 with its count in bits 31:8. -/
theorem test_decode_fecSize : decode 0b00000000000000000000000000000001 = .ok .fecSize := by decide
theorem test_decode_fecEncode : decode 0b00000000000000000000000000000010 = .ok .fecEncode := by decide
theorem test_decode_escCount : decode 0b00000000000000000000000000000011 = .ok .escCount := by decide
theorem test_decode_escEscape : decode 0b00000000000000000000000000000100 = .ok .escEscape := by decide
theorem test_decode_txStart : decode 0b00000000000000000000000000010000 = .ok .txStart := by decide
theorem test_decode_txPump : decode 0b00000000000000000000000000010001 = .ok .txPump := by decide
theorem test_decode_txCancel : decode 0b00000000000000000000000000010010 = .ok .txCancel := by decide
theorem test_decode_tone : decode 0b00000000000000000010100000010011 = .ok (.tone 40) := by decide
theorem test_decode_orbFlush : decode 0b00000000000000000000000000100000 = .ok .orbFlush := by decide
theorem test_decode_reset : decode 0b00000000000000000000000001111111 = .ok .reset := by decide

/-- Reserved opcodes and a non-zero immediate are illegal (30_encoding.md section 4, V-SYS-2). -/
theorem test_decode_refuses_illegal_words :
    decode 0x00000000 = .error (.reservedOpcode 0x00) ∧ decode 0x00000005 = .error (.reservedOpcode 0x05) ∧
      decode 0x0000017F = .error (.nonZeroImmediate 0x7F 1) ∧
      decode 0x00000111 = .error (.nonZeroImmediate 0x11 1) := by decide

/-- The encoder writes the same words. -/
theorem test_encode_words :
    [Instr.fecSize, .fecEncode, .escCount, .escEscape, .txStart, .txPump, .txCancel, .tone 40, .orbFlush, .reset].map encode =
      [0x01, 0x02, 0x03, 0x04, 0x10, 0x11, 0x12, 0x2813, 0x20, 0x7F] := by decide

/-- Request words of 95_test_vectors.md: `WR SRC[0], 0x53`, `RD STATUS`, `CMD TX_PUMP`. -/
theorem test_request_words :
    writeRequest (.mem .src) 0 0x53 = 0x9000000000000053 ∧ readRequest .reg 0x08 = 0x0000000800000000 ∧
      packRequest (cmdRequest 0x11) = 0x8000000400000011 := by decide

/-- The response words of 30_encoding.md section 1. -/
theorem test_response_words : packResponse (.ok 0x53475458) = 0x053475458 ∧ packResponse .err = 0x100000000 := by decide

/-! ## The field, the code and the escape mapping -/

/-- V-FEC-1. -/
theorem test_gfMul_vectors :
    gfMul 0x187 0x80 0x02 = 0x87 ∧ gfMul 0x187 0xFF 0xFF = 0xE0 ∧ gfMul 0x187 0x12 0x34 = 0x26 ∧
      gfMul 0x187 0xAB 0x54 = 0x68 ∧ gfMul 0x187 0x53 0xCA = 0xA8 := by decide +kernel

/-- The generator table of 40_fec.md section 2: GEN[31] down to GEN[0] (V-FEC-3). -/
theorem test_generator_table :
    (generator 0x187).reverse =
      [0x01, 0x95, 0x3F, 0x9E, 0x97, 0xF2, 0x3C, 0xB9, 0xE5, 0x99, 0xB5, 0xAB, 0x37, 0xB1, 0xFE, 0x0D, 0x82,
       0x85, 0x0D, 0x54, 0xF2, 0x4C, 0xE8, 0xAC, 0xC5, 0xFB, 0xB3, 0xDB, 0xCD, 0x77, 0x87, 0xB6, 0x3B] := by
  decide +kernel

/-- The default field polynomial is primitive (40_fec.md section 1). -/
theorem test_default_field_is_primitive : primitiveField 0x187 = true := by decide +kernel

/-- V-FEC-5: the first and last parity bytes of the chunk "SGEX". -/
theorem test_encodeBlock_short_chunk :
    ((encodeBlock 0x187 [0x53, 0x47, 0x45, 0x58]).drop 222).take 4 = [0x00, 0x23, 0x3A, 0xF1] ∧
      (encodeBlock 0x187 [0x53, 0x47, 0x45, 0x58]).getLast? = some 0x71 := by decide +kernel

/-- V-ESC-1, the last row, and that the inverse gives the input back. -/
theorem test_escape_vector :
    escape [0x53, 0x47, 0x45, 0x58, 0xAB, 0x54, 0x00, 0x9F] =
        [0x53, 0x47, 0x45, 0x58, 0x54, 0x9F, 0x54, 0x54, 0x00, 0x9F] ∧
      unescape [0x54, 0x54, 0x9F] = some [0x54, 0x9F] := by decide

/-! ## The modulator and the default configuration -/

/-- V-MOD-1 and V-MOD-2: the first samples of a mark tone from rest and of the space tone after it, and the phases. -/
theorem test_synth_vectors :
    (synth Params.default 0x06666666 40 0).1.take 6 = [0x00, 0x13, 0x25, 0x39, 0x49, 0x58] ∧
      (synth Params.default 0x06666666 40 0).2 = 0xFFFFFFF0 ∧
      (synth Params.default 0x0BBBBBBC 40 0xFFFFFFF0).1.take 3 = [0xFD, 34, 68] ∧
      (synth Params.default 0x0BBBBBBC 40 0xFFFFFFF0).2 = 0xD5555550 := by decide +kernel

/-- V-MOD-4: the zero-frequency tone, of no samples too. -/
theorem test_silence_clears_the_phase :
    synth Params.default 0 3 0xD5555560 = ([0, 0, 0], 0) ∧ synth Params.default 0 0 0x55 = ([], 0) := by decide

/-- V-MOD-5 and V-MOD-6: the phase after a frame of 0x53 and after a sync frame. -/
theorem test_frame_phases :
    (frameSamples Params.default 0 0x53 false 0).2 = 0xAAAAAA80 ∧
      (frameSamples Params.default 0 0xAB true 0xFFFFFFE0).2 = 0xD55554F0 := by decide +kernel

theorem test_default_sine_has_256_samples : defaultSine.length = 256 := by decide +kernel

/-- The default configuration keeps the constraints of 00_scope.md. -/
theorem test_default_params_are_valid : ValidParams Params.default := by
  constructor <;> decide +kernel

/-! ## Small states -/

/-- A small configuration that keeps the constraints of 00_scope.md: one sample a bit, a four-entry sine, one-codeword
buffers. -/
def small : Params := { Params.default with
  srcMax := 2, codMax := 255, txbMax := 510, sampleRate := 1200, nsBit := 1, markHz := 1, spaceHz := 2
  ftwMark := 3579139, ftwSpace := 7158279, sinLen := 4, sine := [0x00, 0x7F, 0x00, 0x81]
  leaderBits := 1, trailerBits := 1, flushNs := 4, orbMin := 20, orbMax := 35 }

theorem test_small_params_are_valid : ValidParams small := by
  constructor <;> decide +kernel

/-- The reset state with the small configuration. -/
def idle : State := { State.reset with params := small }

/-- What the host asks next. -/
def asking (r : BitVec 64) (s : State) : State := { s with inputs := [.request r] }

/-- A CMD write as the host's next event. -/
def commanding (w : Word) (s : State) : State := asking (packRequest (cmdRequest w)) s

/-- The state with the sink's next answers fixed. -/
def answering (answers : List Bool) (s : State) : State := { s with sinkAnswers := answers }

/-- A block that has faulted. -/
def faulted : State := { idle with
  status := { Status.reset with code := .error, cause := .noSession, fault := true, fcause := .noSession } }

/-- A block with two bytes to send. -/
def loaded : State := { idle with txb := [(0, 0x41), (1, 0x54)], txbLen := 2 }

/-- A session over those bytes, at a place of the sequencer. -/
def session (m : MState) (cursor : Word) (cancelling : Bool) : State := { loaded with
  sesLen := 2, cursor := cursor
  status := { Status.reset with transmitting := true, mstate := m, cancelling := cancelling } }

/-- A block with one pending sample. -/
def pending : State := { idle with orb := [(0, 0x7F)], orbSize := 1 }

/-- The invariant as one check that evaluates, but for the configuration. -/
def checkInv (s : State) : Bool :=
  decide (s.orbSize.toNat < s.params.orbMin ∧ s.cursor.toNat ≤ s.sesLen.toNat ∧ s.sesLen.toNat ≤ s.params.txbMax ∧
    s.codLen.toNat ≤ s.params.codMax ∧ s.codLen.toNat % 255 = 0 ∧ s.txbLen.toNat ≤ s.params.txbMax ∧
    s.srcLen.toNat ≤ s.params.srcMax) &&
  decide ((s.status.transmitting = false ↔ s.status.mstate = .idle) ∧
    (s.status.transmitting = false → s.sesLen = 0 ∧ s.cursor = 0 ∧ s.status.cancelling = false) ∧
    (s.status.transmitting = true → s.sesLen = s.txbLen ∧ 1 ≤ s.sesLen.toNat) ∧
    (s.status.mstate = .leader ∨ s.status.mstate = .sync0 ∨ s.status.mstate = .sync1 → s.cursor = 0) ∧
    (s.status.mstate = .flushTone → s.status.cancelling = true) ∧
    (s.status.cancelling = true → closing s.status.mstate = true) ∧ (s.status.mstate = .finish → s.orbSize = 0) ∧
    (s.status.fault = true ↔ s.status.fcause ≠ .none)) &&
  decide (statusWord s.status &&& 0xFFF00800 = 0 ∧ (codeBits s.status.code).toNat ≤ 5 ∧
    (causeBits s.status.cause).toNat ≤ 9 ∧ (mstateBits s.status.mstate).toNat ≤ 8 ∧ cfgLegal s.cfg = true) &&
  decide (s.src.wf ∧ s.cod.wf ∧ s.txb.wf ∧ s.orb.wf) &&
  decide (s.srcStale.Pairwise (fun a b => a < b) ∧ (∀ a ∈ s.srcStale, a < s.params.srcMax)) &&
  decide (inSpace .src s ∧ inSpace .cod s ∧ inSpace .txb s ∧ inSpace .orb s) &&
  (List.range s.txbLen.toNat).all (fun a => ((memAt s.txb a).map (fun b => decide (b ≠ Config.syncByte))).getD false)

theorem inv_of_checkInv {s : State} (hp : ValidParams s.params) (h : checkInv s = true) : Inv s := by
  simp only [checkInv, Bool.and_eq_true, decide_eq_true_eq, List.all_eq_true, List.mem_range] at h
  obtain ⟨hfields, hclean⟩ := h
  constructor
  case params => exact hp
  case txb_clean =>
    intro a ha
    have := hclean a ha
    cases hm : memAt s.txb a with
    | none => simp [hm] at this
    | some b => exact ⟨b, rfl, by simpa [hm] using this⟩
  all_goals
    casesm* _ ∧ _
    assumption

theorem inv_small {s : State} (hp : s.params = small) (h : checkInv s = true) : Inv s :=
  inv_of_checkInv (hp ▸ test_small_params_are_valid) h

/-! ## One command on a small state -/

/-- A script on a state, and what is asked of the state after it; false where it stops. -/
def after (l : List ScriptLine) (s : State) (p : State → Bool) : Bool := ((play l s).map p).getD false

/-- Program P4 of 95_test_vectors.md: a pump without a session faults, the fault refuses commands, RESET clears it. -/
theorem test_fault_and_reset :
    after [cmdLine .txPump, rdReg .status 0x00040244, cmdLine .fecSize, rdReg .status 0x00040294, cmdLine .reset,
      rdReg .status 0, rdReg .cmd 0x7F, rdReg .arg0 0] State.reset (fun _ => true) = true := by decide +kernel

/-- RESET keeps the bytes of SRC and makes them unspecified to a reader until they are written again (44_system.md section 2). -/
theorem test_reset_unsettles_src :
    after [.wr (.mem .src) 0 5, .wr (.mem .src) 1 6, cmdLine .reset, .wr (.mem .src) 1 7, .rd (.mem .src) 1 (some (.ok 7))]
      idle (fun s => decide (s.src = [(0, 5), (1, 7)] ∧ s.srcStale = [0])) = true := by decide +kernel

/-- V-FEC-11, the rows on both sides of the overflow. -/
theorem test_fecSize_overflow :
    after [wrReg .arg0 447, cmdLine .fecSize, rdReg .res0 765, wrReg .arg0 0xDFDFDFDF, cmdLine .fecSize,
      rdReg .res0 0xFFFFFFFF, wrReg .arg0 0xDFDFDFE0, cmdLine .fecSize, rdReg .status 0x14, rdReg .res0 0xFFFFFFFF]
      State.reset (fun _ => true) = true := by decide +kernel

/-- V-FEC-7 through the block: a one-byte source. -/
theorem test_fecEncode_one_byte :
    after [.wr (.mem .src) 0 1, wrReg .srcLen 1, cmdLine .fecEncode, rdReg .status 0, rdReg .codLen 255, rdReg .res0 255,
      .rd (.mem .cod) 0 (some (.ok 1)), .rd (.mem .cod) 223 (some (.ok 0xF5)), .rd (.mem .cod) 254 (some (.ok 0x23))]
      idle (fun _ => true) = true := by decide +kernel

/-- V-FEC-12 and V-ESC-6: empty inputs, and the commands the session keeps out. -/
theorem test_pipeline_errors :
    after [cmdLine .fecEncode, rdReg .status 0x14, cmdLine .escEscape, rdReg .status 0x14, cmdLine .escCount, rdReg .status 0,
      cmdLine .txStart, rdReg .status 0x14] idle (fun _ => true) = true ∧
      after [cmdLine .fecEncode, rdReg .status 0x00071374] (session .leader 0 false) (fun _ => true) = true ∧
      after [cmdLine .escEscape, rdReg .status 0x00071374] (session .leader 0 false) (fun _ => true) = true := by
  decide +kernel

/-- V-ESC-1, the row `01 54 AB 9F`, as the examples of 41_escape.md have it. -/
theorem test_escape_commands :
    after [cmdLine .escCount, rdReg .res0 2, cmdLine .escEscape, rdReg .txbLen 6, .rd (.mem .txb) 4 (some (.ok 0x9F))]
      { idle with cod := [(0, 0x01), (1, 0x54), (2, 0xAB), (3, 0x9F)], codLen := 4 }
      (fun s => decide (s.txb.map (fun c => c.2) = [0x01, 0x54, 0x54, 0x54, 0x9F, 0x9F])) = true := by decide +kernel

/-- The example of TX_START in 42_modulator.md section 4, over two bytes. -/
theorem test_txStart_opens_the_session :
    after [cmdLine .txStart, rdReg .status 0x1100, rdReg .sesLen 2, rdReg .cursor 0] loaded (fun _ => true) = true := by
  decide +kernel

/-- A whole session: STATUS 0x00004101 after the pump that sends the data, 0x00000002 after the last; the units are 1, 16,
16, 16, 16 and 1 samples, cut at 20. -/
theorem test_txPump_sends_the_session :
    after [cmdLine .txPump, rdReg .status 0x4101, rdReg .cursor 2, cmdLine .txPump, rdReg .status 2, rdReg .orbSize 0]
      (answering (List.replicate 8 true) (session .leader 0 false))
      (fun s => decide (s.sinkLog.map List.length = [33, 32, 20])) = true := by decide +kernel

/-- A busy sink leaves the position where it was: STATUS 0x00004103 (program P3 of 95_test_vectors.md). -/
theorem test_txPump_busy :
    after [cmdLine .txPump, rdReg .status 0x4103, rdReg .cursor 1] (answering [true, false] (session .data 0 false))
      (fun s => decide (s.polls = 2)) = true := by decide +kernel

/-- A cancellation after the trailer of a normal end: no flush tone, PHASE kept, and still ST_CANCELLED (42_modulator.md
section 4). -/
theorem test_txCancel_after_the_trailer :
    after [cmdLine .txCancel, rdReg .status 5, rdReg .phase 77, rdReg .orbSize 0]
      { answering [true, true] (session .drain 2 false) with orb := [(0, 0x7F)], orbSize := 1, phase := 77 }
      (fun s => decide (s.sinkLog = [0x7F :: List.replicate 19 0])) = true := by decide +kernel

/-- A cancellation in the body: trailer and flush tone, padded to 20, PHASE 0, STATUS 0x00000005. -/
theorem test_txCancel_drains :
    after [cmdLine .txCancel, rdReg .status 5, rdReg .phase 0, rdReg .cursor 0]
      (answering (List.replicate 4 true) (session .data 1 false))
      (fun s => decide (s.sinkLog.map List.length = [20])) = true := by decide +kernel

/-- The start of program P5 of 95_test_vectors.md: TONE 40, its second sample and the phase. -/
theorem test_tone_of_one_bit :
    after [.sink [true], wrReg .arg0 0x06666666, cmdLine (.tone 40), rdReg .orbSize 40, .rd (.mem .orb) 1 (some (.ok 0x13)),
      rdReg .phase 0xFFFFFFF0] State.reset (fun s => decide (s.sinkLog = [])) = true := by decide +kernel

/-- An oversized tone faults and writes nothing (95_test_vectors.md, ring buffer): STATUS 0x00060264. -/
theorem test_tone_overflow :
    after [wrReg .arg0 5, cmdLine (.tone 36), rdReg .status 0x00060264, rdReg .errinfo 36, rdReg .orbSize 0, rdReg .phase 0]
      (answering [true] idle) (fun s => decide (s.orb = [])) = true := by decide +kernel

/-- A flush: busy, then padded and handed off, then a no-op without a poll (43_ring_buffer.md section 2). -/
theorem test_orbFlush_pads :
    after [cmdLine .orbFlush, rdReg .status 3, rdReg .orbSize 1, cmdLine .orbFlush, rdReg .status 0, rdReg .orbSize 0,
      cmdLine .orbFlush, rdReg .status 0] (answering [false, true] pending)
      (fun s => decide (s.sinkLog = [0x7F :: List.replicate 19 0] ∧ s.polls = 2)) = true := by decide +kernel

/-- Illegal words (V-SYS-2): the word is ERRINFO, STATUS 0x00080284. -/
theorem test_illegal_word :
    after [wrReg .cmd 0x111, rdReg .status 0x00080284, rdReg .errinfo 0x111] State.reset (fun _ => true) = true := by
  decide +kernel

/-- The port's edges in the default configuration (20_memory.md section 1). -/
theorem test_port_edges :
    [readRequest .reg 0x34, readRequest .reg 0x38, readRequest .reg 0x02, readRequest (.mem .src) 57088,
      writeRequest .reg 0x18 3, writeRequest .reg 0x18 4, writeRequest .reg 0x1C 57088, writeRequest .reg 0x1C 57089,
      writeRequest (.mem .src) 57087 0xFF, writeRequest (.mem .src) 0 0x100, writeRequest (.mem .cod) 0 0,
      0x5000000000000000].map (fun r => (issue r State.reset).map (fun t => decide (t.2 = .err))) =
      [false, true, true, true, false, true, false, true, false, true, true, true].map some := by decide +kernel

/-! ## The host's two questions -/

theorem test_decodeTableWord : decodeTableWord 32 0x2813 = some (.tone 40) ∧ decodeTableWord 8 0x13 = some (.tone 0) := by
  decide

/-- The very next step runs the word. -/
theorem test_withFetchWord : step (State.reset.withFetchWord 32 0x03) =
    exec .escCount { State.reset with cmd := 0x03, responses := [.ok 0] } := by rfl

/-! ## Witnesses of the obligations' hypotheses -/

theorem inv_idle : Inv idle := inv_small rfl (by decide +kernel)
theorem inv_loaded : Inv loaded := inv_small rfl (by decide +kernel)
theorem inv_faulted : Inv faulted := inv_small rfl (by decide +kernel)

theorem witness_DecodeOfEncode : (Instr.tone 0).wellFormed = true ∧ (Instr.tone 16777215).wellFormed = true := by decide

theorem witness_EncodeOfDecode : decode 0xFFFFFF13 = .ok (.tone 16777215) ∧ decode 0x7F = .ok .reset := by decide

theorem witness_RequestPackingRoundTrips :
    unpackRequest 0x9000000100000053 = some { we := true, space := 1, offset := 1, wdata := 0x53 } ∧
      unpackRequest 0x0100000000000000 = none := by decide

theorem witness_StepRunsTheDecodedCommand :
    (commanding 0xFFFFFF13 idle).inputs = .request (packRequest (cmdRequest 0xFFFFFF13)) :: [] ∧
      decode 0xFFFFFF13 = .ok (.tone 16777215) ∧ (Instr.tone 16777215).wellFormed = true := ⟨rfl, by decide, by decide⟩

theorem witness_IllegalWordFaults :
    (commanding 0x80 idle).inputs = .request (packRequest (cmdRequest 0x80)) :: [] ∧
      decode 0x80 = .error (.reservedOpcode 0x80) ∧ (commanding 0x80 idle).status.fault = false ∧
      (commanding 0x80 faulted).inputs = .request (packRequest (cmdRequest 0x80)) :: [] ∧
      (commanding 0x80 faulted).status.fault = true := ⟨rfl, by decide, rfl, rfl, rfl⟩

theorem witness_FaultedBlockRefusesCommands :
    (commanding 0x17F faulted).inputs = .request (packRequest (cmdRequest 0x17F)) :: [] ∧
      (commanding 0x17F faulted).status.fault = true ∧ (0x17F : Word) ≠ 0x7F := ⟨rfl, rfl, by decide⟩

/-- A read at a register offset. -/
def readAt (off : BitVec 24) : Request := { we := false, space := 0, offset := off, wdata := 0 }

/-- Whether the port refuses a request, as a value. -/
def refuses (q : Request) (s : State) : Bool := decide (portRefusal q s)

/-- A write to a space. -/
def writeTo (space : BitVec 3) (off : BitVec 24) (v : Word) : Request :=
  { we := true, space := space, offset := off, wdata := v }

/-- The refusals' edges: 0x38 and 0x34, SRC_MAX and SRC_MAX − 1, CFG 4 and 3, SRC_LEN 3 and 2, SRC 0x100 and 0xFF, a session and
none, and CMD in every case. -/
theorem witness_portRefusal :
    [readAt 0x38, readAt 0x34, readAt 0x06, writeTo 1 2 0, writeTo 1 1 0xFF, writeTo 1 1 0x100, writeTo 0 0x18 4,
        writeTo 0 0x18 3, writeTo 0 0x1C 3, writeTo 0 0x1C 2, writeTo 0 0x34 0].map (fun q => refuses q idle) =
      [true, false, true, true, false, true, true, false, true, false, true] ∧
    [writeTo 0 0x18 3, writeTo 0 0x04 0x11, writeTo 1 1 0xFF].map (fun q => refuses q (session .leader 0 false)) =
      [true, false, true] := by decide +kernel

theorem witness_PortRefusesExactly :
    (asking 0x0100000000000000 idle).inputs = .request 0x0100000000000000 :: [] ∧
      unpackRequest 0x0100000000000000 = none ∧
      unpackRequest (packRequest (readAt 0x38)) = some (readAt 0x38) ∧
      unpackRequest (packRequest (readAt 0x34)) = some (readAt 0x34) ∧ isCmdWrite (readAt 0x34) = false ∧
      unpackRequest (packRequest (cmdRequest 0x01)) = some (cmdRequest 0x01) ∧
      isCmdWrite (cmdRequest 0x01) = true := ⟨rfl, by decide, by decide, by decide, by decide, by decide, by decide⟩

/-- A read of PHASE, a read of SRC's last byte inside its valid length, and one of COD beyond its valid length. -/
theorem witness_ReadsAnswerTheLocation :
    unpackRequest 0x0000003400000000 = some (readAt 0x34) ∧
      unpackRequest 0x1000000100000000 = some { we := false, space := 1, offset := 1, wdata := 0 } ∧
      [readAt 0x34, { we := false, space := 1, offset := 1, wdata := 0 },
        { we := false, space := 2, offset := 254, wdata := 0 }].map (fun q => refuses q idle) = [false, false, false] ∧
      1 < validLength .src idle ∧ ¬ 254 < validLength .cod idle := by decide +kernel

theorem witness_StatusReadGivesItsFields :
    (asking 0x0000000800000000 faulted).inputs = .request 0x0000000800000000 :: [] ∧
      readRequest .reg (regOffset .status) = 0x0000000800000000 := ⟨rfl, by decide⟩

theorem witness_RegisterWritesStoreTheWord :
    refuses (writeTo 0 0x10 0xFFFFFFFF) (session .data 1 false) = false ∧
      [writeTo 0 0x18 3, writeTo 0 0x1C 2].all (fun q => !refuses q idle && decide (q.we = true ∧ q.space = 0)) = true ∧
      ([writeTo 0 0x10 0xFFFFFFFF, writeTo 0 0x18 3, writeTo 0 0x1C 2].all
        fun q => decide (unpackRequest (packRequest q) = some q)) = true := by decide +kernel

theorem witness_SrcWriteReadsBack :
    (asking (packRequest (writeTo 1 1 0xFF)) idle).inputs = .request (packRequest (writeTo 1 1 0xFF)) :: [] ∧
      unpackRequest (packRequest (writeTo 1 1 0xFF)) = some (writeTo 1 1 0xFF) ∧ refuses (writeTo 1 1 0xFF) idle = false ∧
      idle.src.wf := ⟨rfl, by decide, by decide +kernel, List.Pairwise.nil⟩

theorem witness_StatusDescribesTheLastCommand :
    (∃ t, step (asking (packRequest (readAt 0x34)) idle) = .next t) ∧ isCmdWrite (readAt 0x34) = false ∧
      unpackRequest (packRequest (readAt 0x34)) = some (readAt 0x34) ∧
      unpackRequest (packRequest (cmdRequest 0x01)) = some (cmdRequest 0x01) ∧
      isCmdWrite (cmdRequest 0x01) = true := ⟨⟨_, rfl⟩, by decide, by decide, by decide, by decide⟩

theorem witness_ResetCommandRestoresTheRegisters :
    (∃ t, exec .reset faulted = .next t) ∧ ∃ u, step { faulted with inputs := .rst :: faulted.inputs } = .next u :=
  ⟨⟨_, rfl⟩, ⟨_, rfl⟩⟩

theorem witness_PowerOnResetRestoresTheRegisters : ({ pending with inputs := [.rst] } : State).inputs = .rst :: [] := rfl

theorem witness_StepKeepsTheInvariant : Inv loaded ∧ step loaded = .next loaded := ⟨inv_loaded, rfl⟩

theorem witness_StepNeverStops : Inv faulted := inv_faulted

/-- For SequencerFollowsItsTable and StreamOnlyGrows: the first pump of a session. -/
theorem witness_commands_from_the_invariant :
    Inv (answering (List.replicate 5 true) (session .leader 0 false)) ∧ Instr.txPump ≠ .reset ∧
      ∃ t, exec .txPump (answering (List.replicate 5 true) (session .leader 0 false)) = .next t :=
  ⟨inv_small rfl (by decide +kernel), by decide, ⟨_, rfl⟩⟩

theorem witness_UnreachableErrorsAreNeverReported :
    Inv (answering [true] idle) ∧
      ∃ t, exec (.tone 36) (answering [true] idle) = .next t ∧ t.status.cause = .orbOverflow :=
  ⟨inv_small rfl (by decide +kernel), ⟨_, rfl, by decide +kernel⟩⟩

theorem witness_HandoffsHaveLegalSizes :
    Inv (commanding 0x20 (answering [true] pending)) ∧
      ∃ t, step (commanding 0x20 (answering [true] pending)) = .next t ∧ t.sinkLog.length = 1 :=
  ⟨inv_small rfl (by decide +kernel), ⟨_, rfl, by decide +kernel⟩⟩

theorem witness_OnlyFourCommandsReachTheSink :
    ∃ t, step (commanding 0x20 (answering [true] pending)) = .next t ∧ t.polls ≠ pending.polls :=
  ⟨_, rfl, by decide +kernel⟩

theorem witness_OnlyFourCommandsWriteTheResult :
    (∃ t, step (commanding 0x01 { idle with arg0 := 1 }) = .next t ∧ t.res0 ≠ idle.res0) ∧
      ∃ t, exec .reset { idle with res0 := 5 } = .next t := ⟨⟨_, rfl, by decide +kernel⟩, ⟨_, rfl⟩⟩

theorem witness_CommandsReportByFinishOrFault :
    (∃ t, exec .txPump idle = .next t ∧ t.status.code = .error ∧ t.status.fault = true) ∧
      (∃ t, exec .txStart loaded = .next t ∧ t.status.code ≠ .error ∧ t.status.fault = false) ∧
      (∃ t, exec .txStart faulted = .next t) ∧ faulted.status.fault = true ∧ idle.status.fault = false :=
  ⟨⟨_, rfl, by decide +kernel⟩, ⟨_, rfl, by decide +kernel⟩, ⟨_, rfl⟩, rfl, rfl⟩

theorem witness_SessionDataIsFrozen :
    ∃ t, step (commanding 0x02 (session .leader 0 false)) = .next t ∧
      (commanding 0x02 (session .leader 0 false)).status.transmitting = true ∧ t.status.transmitting = true :=
  ⟨_, rfl, by decide +kernel⟩

theorem witness_ConfigurationNeverChanges : ∃ t, step (commanding 0x7F idle) = .next t := ⟨_, rfl⟩

/-- Both sides of the overflow, and both branches of the formula at 222 and 223. -/
theorem witness_FecSizeComputesTheEncodedSize :
    idle.status.fault = false ∧ faulted.status.fault = true ∧ (3755991007 : Word).toNat ≤ 3755991007 ∧
      3755991007 < (3755991008 : Word).toNat ∧ (222 : Word).toNat % 223 ≠ 0 ∧ (223 : Word).toNat % 223 = 0 := by decide

/-- The session, the empty source, and the shortest and the longest source the bound admits. -/
theorem witness_FecEncodeWritesTheCodewords :
    (session .data 1 false).status.transmitting = true ∧ (session .data 1 false).status.fault = false ∧
      idle.status.fault = false ∧ idle.status.transmitting = false ∧ idle.srcLen = 0 ∧
      ({ idle with srcLen := 1 } : State).srcLen ≠ 0 ∧ ({ idle with srcLen := 0xFFFFFF } : State).srcLen ≠ 0 ∧
      ({ idle with srcLen := 0xFFFFFF } : State).srcLen.toNat < 2 ^ 24 := by decide

/-- For CodewordIsSystematic, CodewordHasTheGeneratorRoots, BlockEncodingIsLinear and FieldMultiplicationLaws: the shortest and the
longest chunk, and two field polynomials of degree 8. -/
theorem witness_chunks :
    1 ≤ [(0xAB : Byte)].length ∧ [(0xAB : Byte)].length ≤ 223 ∧ (List.replicate 223 (0xAB : Byte)).length ≤ 223 ∧
      (0x187 : BitVec 9).getLsbD 8 = true ∧ (0x100 : BitVec 9).getLsbD 8 = true := by decide +kernel

theorem witness_EscCountCountsReservedBytes :
    (session .data 1 false).status.fault = false ∧ faulted.status.fault = true := by decide

theorem witness_EscEscapeWritesTheEscapedStream :
    (session .data 1 false).status.transmitting = true ∧ idle.codLen = 0 ∧ idle.status.fault = false ∧
      idle.status.transmitting = false ∧ ({ idle with codLen := 255 } : State).codLen ≠ 0 ∧
      ({ idle with codLen := 0xFFFFFF } : State).codLen.toNat < 2 ^ 24 := by decide

theorem witness_EscapeMappingLaws : escape [0x54, 0x9F] = escape [0x54, 0x9F] ∧ ∀ b ∈ [(0x9F : Byte)], b ≠ 0x54 ∧ b ≠ 0xAB := by
  decide

/-- The shortest and the longest sine ROM. -/
theorem witness_SynthReadsTheRomAtTheRunningPhase :
    ({ small with sinLen := 2 } : Params).sinLen = 2 ^ 1 ∧ ({ small with sinLen := 65536 } : Params).sinLen = 2 ^ 16 ∧
      small.ftwMark ≠ 0 := by decide

theorem witness_TxStartOpensTheSession :
    (session .finish 2 false).status.transmitting = true ∧ (session .finish 2 false).status.fault = false ∧
      idle.txbLen = 0 ∧ idle.status.transmitting = false ∧ loaded.txbLen ≠ 0 ∧ loaded.status.transmitting = false ∧
      faulted.status.fault = true := by decide

theorem witness_PumpAndCancelNeedASession : loaded.status.fault = false ∧ loaded.status.transmitting = false := by decide

theorem witness_PumpAndCancelAlwaysEnd :
    (session .flushTone 0 true).status.fault = false ∧ (session .flushTone 0 true).status.transmitting = true ∧
      (session .flushTone 0 true).status.mstate ≠ .idle := by decide

theorem witness_FirstPumpSendsPreambleAndData :
    let s := answering (List.replicate 5 true) (session .leader 0 false)
    Inv s ∧ s.status.fault = false ∧ s.status.mstate = .leader ∧ min 128 s.sesLen.toNat = 2 ∧ readyFor (3 + 2) [] s :=
  ⟨inv_small rfl (by decide +kernel), rfl, rfl, rfl, rfl⟩

theorem witness_MiddlePumpSendsData :
    let s := answering [true, false] (session .data 1 false)
    Inv s ∧ s.status.fault = false ∧ s.status.mstate = .data ∧ s.cursor ≠ s.sesLen ∧
      min 128 (s.sesLen.toNat - s.cursor.toNat) = 1 ∧ readyFor 1 [false] s :=
  ⟨inv_small rfl (by decide +kernel), rfl, rfl, by decide, rfl, rfl⟩

/-- A session that is closed at a place of the sequencer, with pending samples and the sink's answers. -/
def closed (m : MState) (cancelling : Bool) (samples polls : Nat) : State :=
  { answering (List.replicate polls true) (session m 2 cancelling) with
    orb := (List.range samples).map (fun a => (a, 0)), orbSize := BitVec.ofNat 32 samples }

/-- Whether a state meets what LastPumpCompletesTheSession and CancelDrainsAndEndsTheSession ask of the sink, with as many answers as
`closed` fixes. -/
def hasItsPolls (cancelling : Bool) (polls : Nat) (s : State) : Bool :=
  let units := makeUnits (closingUnits s.params cancelling s.status.mstate) s.phase
  let cut := cutHandoffs s.params.orbMin (pendingSamples s) units.1
  decide (units.1.length + (if cut.2 = [] then 1 else 2) = polls) && checkInv s &&
    decide (s.sinkAnswers = List.replicate polls true)

/-- Every entry of a closing pump, cancelled or not: at the end of the data with a sample left pending (three polls) and with
none (19 pending samples and a trailer of one: two), and at each closing state. -/
theorem witness_LastPumpCompletesTheSession :
    [hasItsPolls false 3 (closed .data false 0 3), hasItsPolls false 2 (closed .data false 19 2),
      hasItsPolls false 3 (closed .trailer false 0 3), hasItsPolls true 4 (closed .trailer true 0 4),
      hasItsPolls true 2 (closed .flushTone true 16 2), hasItsPolls false 2 (closed .drain false 1 2),
      hasItsPolls true 1 (closed .drain true 0 1), hasItsPolls false 1 (closed .finish false 0 1)].all id = true ∧
      (closed .data false 19 2).cursor = (closed .data false 19 2).sesLen ∧
      (closed .finish false 0 1).status.fault = false := by decide +kernel

/-- The polls of a busy pump: at the end of the data, in M_DRAIN with something pending and with nothing, and elsewhere. -/
theorem witness_BusyPumpKeepsItsPosition :
    (session .data 2 false).cursor = (session .data 2 false).sesLen ∧
      (session .data 1 false).cursor ≠ (session .data 1 false).sesLen ∧
      pollingPlace .drain (closed .drain false 0 0) = .finish ∧ pollingPlace .drain (closed .drain false 1 0) = .drain ∧
      (answering [false] (session .data 1 false)).sinkAnswers = false :: [] ∧
      (session .data 1 false).status.fault = false ∧ (session .data 1 false).status.transmitting = true := by decide

theorem witness_PumpIsBounded :
    Inv (answering [true, false] (session .data 0 false)) ∧
      ∃ t, exec .txPump (answering [true, false] (session .data 0 false)) = .next t ∧ t.status.transmitting = true :=
  ⟨inv_small rfl (by decide +kernel), ⟨_, rfl, by decide +kernel⟩⟩

/-- A first cancellation in the body of a session and in each closing state of an uncancelled one, and a repeated one: the trailer
and the flush tone stay pending (four polls), or reach the threshold with 15 pending samples (three). -/
theorem witness_CancelDrainsAndEndsTheSession :
    [hasItsPolls true 4 (closed .data false 0 4), hasItsPolls true 3 (closed .data false 15 3),
      hasItsPolls true 4 (answering (List.replicate 4 true) (session .sync1 0 false)),
      hasItsPolls true 4 (closed .trailer false 0 4), hasItsPolls true 2 (closed .drain false 1 2),
      hasItsPolls true 1 (closed .finish false 0 1), hasItsPolls true 3 (closed .flushTone true 1 3)].all id = true ∧
      (closed .data false 15 3).status.fault = false ∧ (closed .data false 15 3).status.transmitting = true ∧
      (answering [false] (session .leader 0 false)).sinkAnswers = false :: [] := by decide +kernel

/-- One pending sample and counts at the edges: 18 and 19 around the threshold 20, 34 and 35 around the size 35. -/
theorem witness_ToneEmitsOneUnit :
    Inv (answering [true] pending) ∧ Inv (answering [false] pending) ∧ Inv (session .leader 0 false) ∧
      pending.status.fault = false ∧ pending.status.transmitting = false ∧
      (answering [true] pending).sinkAnswers = true :: [] ∧ (answering [false] pending).sinkAnswers = false :: [] ∧
      pending.orbSize.toNat + 18 < pending.params.orbMin ∧ pending.params.orbMin ≤ pending.orbSize.toNat + 19 ∧
      pending.orbSize.toNat + 34 ≤ pending.params.orbMax ∧ pending.params.orbMax < pending.orbSize.toNat + 35 ∧
      Inv faulted ∧ faulted.status.fault = true :=
  ⟨inv_small rfl (by decide +kernel), inv_small rfl (by decide +kernel), inv_small rfl (by decide +kernel), rfl, rfl, rfl, rfl,
    by decide, by decide, by decide, by decide, inv_faulted, rfl⟩

theorem witness_OrbFlushPadsAndHandsOff :
    Inv idle ∧ idle.orbSize = 0 ∧ Inv (answering [true] pending) ∧ Inv (answering [false] pending) ∧ pending.orbSize ≠ 0 ∧
      (answering [true] pending).sinkAnswers = true :: [] ∧ (answering [false] pending).sinkAnswers = false :: [] ∧
      pending.status.fault = false ∧ faulted.status.fault = true :=
  ⟨inv_idle, rfl, inv_small rfl (by decide +kernel), inv_small rfl (by decide +kernel), by decide, rfl, rfl, rfl, rfl⟩

theorem witness_SessionTakesExactlyItsPumps :
    let s := answering (List.replicate 8 true) (session .leader 0 false)
    Inv s ∧ s.status.fault = false ∧ s.status.mstate = .leader ∧ s.status.cancelling = false ∧
      readyFor (s.sesLen.toNat + 6) [] s := ⟨inv_small rfl (by decide +kernel), rfl, rfl, rfl, rfl⟩

theorem witness_SessionStream :
    let s := answering (List.replicate 8 true) (session .leader 0 false)
    Inv s ∧ s.status.fault = false ∧ s.status.mstate = .leader ∧ s.status.cancelling = false ∧ s.orbSize = 0 ∧
      ((pumps 2 s).map (fun t => (t.status.mstate, t.status.code))) = some (.idle, .complete) :=
  ⟨inv_small rfl (by decide +kernel), rfl, rfl, rfl, rfl, by decide +kernel⟩

end Sys2Proof.Tests
end

/-! R25 (10_state.md): STATUS.CODE, STATUS.CAUSE and ERRINFO describe the last command only. A request that is no CMD write keeps
them. A command does not read them: `withReport` overwrites them, every operation of a command that goes on carries the
overwritten report along, and every end of a command (R221, R233) and RESET (R223) write it anew. -/

namespace Sys2Proof.Machine

/-! ## A request that is no CMD write keeps the report -/

@[simp] theorem storeBytes_status (b : ByteSpace) (base : Nat) (bs : List Byte) (s : State) :
    (storeBytes b base bs s).status = s.status := by cases b <;> rfl
@[simp] theorem storeBytes_errinfo (b : ByteSpace) (base : Nat) (bs : List Byte) (s : State) :
    (storeBytes b base bs s).errinfo = s.errinfo := by cases b <;> rfl

/-- The writable registers other than CMD are ARG0, CFG and SRC_LEN (R66). -/
theorem writeReg_cases {off : BitVec 24} {v : Word} {s t : State} (h : writeReg off v s = some t) :
    t = { s with arg0 := v } ∨ t = { s with cfg := v } ∨ t = { s with srcLen := v } := by
  unfold writeReg at h
  split at h
  case isTrue => exact .inl (Option.some.inj h).symm
  split at h
  case isTrue =>
    simp only [Option.ite_none_right_eq_some, Option.some.injEq] at h
    obtain ⟨-, rfl⟩ := h
    exact .inr (.inl rfl)
  split at h
  case isTrue =>
    simp only [Option.ite_none_right_eq_some, Option.some.injEq] at h
    obtain ⟨-, rfl⟩ := h
    exact .inr (.inr rfl)
  case isFalse => cases h

/-- A served write that is no CMD write is a register's or stores one byte of SRC (R60, R66). -/
theorem portWrite_cases {q : Request} {s t : State} (h : portWrite q s = some t) :
    writeReg q.offset q.wdata s = some t ∨
      t = storeBytes .src q.offset.toNat [q.wdata.extractLsb' 0 8] s := by
  unfold portWrite at h
  split at h
  case h_2 => exact .inl h
  case h_3 =>
    simp only [Option.ite_none_right_eq_some, Option.some.injEq] at h
    obtain ⟨-, rfl⟩ := h
    exact .inr rfl
  all_goals cases h

theorem portWrite_keeps_report {q : Request} {s t : State} (h : portWrite q s = some t) :
    t.status = s.status ∧ t.errinfo = s.errinfo := by
  obtain hreg | rfl := portWrite_cases h
  · obtain rfl | rfl | rfl := writeReg_cases hreg <;> exact ⟨rfl, rfl⟩
  · simp

theorem serveWrite_keeps_report (q : Request) (s : State) :
    (serveWrite q s).status = s.status ∧ (serveWrite q s).errinfo = s.errinfo := by
  unfold serveWrite
  split
  next t h => simpa using portWrite_keeps_report h
  next => simp

/-- A request that is no CMD write is refused as no request at all, stored, or answered as a read. -/
theorem serveRequest_of_no_cmdWrite {r : BitVec 64} (hr : ∀ q, unpackRequest r = some q → isCmdWrite q = false) (s : State) :
    serveRequest r s = .next (respond .err s) ∨
      (∃ q, serveRequest r s = .next (serveWrite q s)) ∨
      ∃ q, serveRequest r s = .next (respond (readResponse q s) s) := by
  cases hq : unpackRequest r with
  | none => exact .inl (by simp [serveRequest, hq])
  | some q =>
    cases hw : q.we
    · exact .inr (.inr ⟨q, by simp [serveRequest, hq, hr q hq, hw]⟩)
    · exact .inr (.inl ⟨q, by simp [serveRequest, hq, hr q hq, hw]⟩)

theorem serveRequest_of_cmdWrite {r : BitVec 64} {q : Request} (hq : unpackRequest r = some q) (hc : isCmdWrite q = true)
    (s : State) : serveRequest r s = executeCmdWrite q.wdata s := by
  simp [serveRequest, hq, hc]

theorem serveRequest_keeps_report {r : BitVec 64} (hr : ∀ q, unpackRequest r = some q → isCmdWrite q = false) {s t : State}
    (h : serveRequest r s = .next t) : t.status = s.status ∧ t.errinfo = s.errinfo := by
  obtain hs | ⟨q, hs⟩ | ⟨q, hs⟩ := serveRequest_of_no_cmdWrite hr s <;> cases hs.symm.trans h
  · simp
  · exact serveWrite_keeps_report q s
  · simp

/-! ## The report overwritten -/

/-- The state with another CODE, CAUSE and ERRINFO. -/
def withReport (code : Code) (cause : Cause) (info : Word) (s : State) : State :=
  { s with status := statusAfter code cause s.status, errinfo := info }

/-- Where a part of a command goes on, its state is changed by `f`; where it has ended the command, it is not. -/
def Flow.mapGoesOn (f : State → State) : Flow → Flow
  | .goesOn s => .goesOn (f s)
  | .ended s => .ended s

/-- Where the sequencer's loop goes round, its state is changed by `f`; where it has ended the command, it is not. -/
def Pass.mapAgain (f : State → State) : Pass → Pass
  | .again n s => .again n (f s)
  | .done s => .done s
  | .idle => .idle

section Report

variable (code : Code) (cause : Cause) (info : Word) (s : State)

/-! ### What it leaves in the fields a command reads -/

@[simp] theorem withReport_params : (withReport code cause info s).params = s.params := rfl
@[simp] theorem withReport_transmitting :
    (withReport code cause info s).status.transmitting = s.status.transmitting := rfl
@[simp] theorem withReport_fault : (withReport code cause info s).status.fault = s.status.fault := rfl
@[simp] theorem withReport_cancelling : (withReport code cause info s).status.cancelling = s.status.cancelling := rfl
@[simp] theorem withReport_mstate : (withReport code cause info s).status.mstate = s.status.mstate := rfl
@[simp] theorem withReport_cfg : (withReport code cause info s).cfg = s.cfg := rfl
@[simp] theorem withReport_txbLen : (withReport code cause info s).txbLen = s.txbLen := rfl
@[simp] theorem withReport_sesLen : (withReport code cause info s).sesLen = s.sesLen := rfl
@[simp] theorem withReport_cursor : (withReport code cause info s).cursor = s.cursor := rfl
@[simp] theorem withReport_orbSize : (withReport code cause info s).orbSize = s.orbSize := rfl
@[simp] theorem withReport_sinkAnswers : (withReport code cause info s).sinkAnswers = s.sinkAnswers := rfl

@[simp] theorem srcLength_withReport : srcLength (withReport code cause info s) = srcLength s := rfl
@[simp] theorem codLength_withReport : codLength (withReport code cause info s) = codLength s := rfl
@[simp] theorem dataSize_withReport : dataSize (withReport code cause info s) = dataSize s := rfl
@[simp] theorem toneWord_withReport : toneWord (withReport code cause info s) = toneWord s := rfl

/-! ### Every end of a command writes the report anew -/

@[simp] theorem finish_withReport (code' : Code) (cause' : Cause) (info' : Word) :
    finish code' cause' info' (withReport code cause info s) = finish code' cause' info' s := rfl
@[simp] theorem finishWith_withReport (code' : Code) :
    finishWith code' (withReport code cause info s) = finishWith code' s := rfl
@[simp] theorem finishError_withReport (cause' : Cause) :
    finishError cause' (withReport code cause info s) = finishError cause' s := rfl
@[simp] theorem raiseFault_withReport (cause' : Cause) (info' : Word) :
    raiseFault cause' info' (withReport code cause info s) = raiseFault cause' info' s := rfl
@[simp] theorem doReset_withReport : doReset (withReport code cause info s) = doReset s := rfl

/-! ### Every other operation carries it along -/

@[simp] theorem bytesAt_withReport (b : ByteSpace) (base n : Nat) :
    bytesAt b base n (withReport code cause info s) = bytesAt b base n s := by cases b <;> rfl

@[simp] theorem storeBytes_withReport (b : ByteSpace) (base : Nat) (bs : List Byte) :
    storeBytes b base bs (withReport code cause info s) = withReport code cause info (storeBytes b base bs s) := by
  cases b <;> rfl

@[simp] theorem codBytes_withReport : codBytes (withReport code cause info s) = codBytes s := by simp [codBytes]
@[simp] theorem srcChunk_withReport (c : Nat) : srcChunk c (withReport code cause info s) = srcChunk c s := by
  simp [srcChunk]
@[simp] theorem codewords_withReport : codewords (withReport code cause info s) = codewords s := by simp [codewords]
@[simp] theorem sessionByte_withReport : sessionByte (withReport code cause info s) = sessionByte s := rfl
@[simp] theorem pendingSamples_withReport : pendingSamples (withReport code cause info s) = pendingSamples s := by
  simp [pendingSamples]

@[simp] theorem orbWrite_withReport (samples : List Byte) :
    orbWrite samples (withReport code cause info s) = withReport code cause info (orbWrite samples s) := rfl
@[simp] theorem handOffPending_withReport :
    handOffPending (withReport code cause info s) = withReport code cause info (handOffPending s) := rfl
@[simp] theorem setMState_withReport (m : MState) :
    setMState m (withReport code cause info s) = withReport code cause info (setMState m s) := rfl
@[simp] theorem endSession_withReport :
    endSession (withReport code cause info s) = withReport code cause info (endSession s) := rfl
@[simp] theorem openSession_withReport :
    openSession (withReport code cause info s) = withReport code cause info (openSession s) := rfl
@[simp] theorem acceptCmd_withReport (w : Word) :
    acceptCmd w (withReport code cause info s) = withReport code cause info (acceptCmd w s) := rfl
@[simp] theorem popInput_withReport :
    popInput (withReport code cause info s) = withReport code cause info (popInput s) := rfl

@[simp] theorem orbHasRoom_withReport (len : Nat) :
    orbHasRoom len (withReport code cause info s) = orbHasRoom len s := rfl

@[simp] theorem autoHandoff_withReport :
    autoHandoff (withReport code cause info s) = withReport code cause info (autoHandoff s) := by
  by_cases h : s.params.orbMin ≤ s.orbSize.toNat <;> simp [autoHandoff, h]

@[simp] theorem padToThreshold_withReport :
    padToThreshold (withReport code cause info s) = withReport code cause info (padToThreshold s) := by
  by_cases h : s.orbSize.toNat < s.params.orbMin <;> simp [padToThreshold, h]

@[simp] theorem orbFlush_withReport :
    orbFlush (withReport code cause info s) = withReport code cause info (orbFlush s) := by
  simp [orbFlush]

@[simp] theorem beginCancel_withReport :
    beginCancel (withReport code cause info s) = withReport code cause info (beginCancel s) := by
  cases h : s.status.cancelling
  · simp only [beginCancel, withReport_cancelling, h]; rfl
  · simp [beginCancel, h]

@[simp] theorem encodeSource_withReport :
    encodeSource (withReport code cause info s) = withReport code cause info (encodeSource s) := by
  simp only [encodeSource, srcLength_withReport, codewords_withReport, storeBytes_withReport, srcChunk_withReport]
  rfl

@[simp] theorem escapeCoded_withReport :
    escapeCoded (withReport code cause info s) = withReport code cause info (escapeCoded s) := by
  simp only [escapeCoded, codBytes_withReport, storeBytes_withReport]
  rfl

@[simp] theorem sinkPoll_withReport :
    sinkPoll (withReport code cause info s) = ((sinkPoll s).1, withReport code cause info (sinkPoll s).2) := by
  cases h : s.sinkAnswers <;> simp only [sinkPoll, withReport_sinkAnswers, h] <;> rfl

/-! ### The parts of a command -/

theorem pollOrBusy_withReport :
    pollOrBusy (withReport code cause info s) = (pollOrBusy s).mapGoesOn (withReport code cause info) := by
  simp only [pollOrBusy, sinkPoll_withReport, finishWith_withReport]
  cases (sinkPoll s).1 <;> rfl

theorem emitUnit_withReport (len : Nat) (gen : Word → List Byte × Word) :
    emitUnit len gen (withReport code cause info s) = (emitUnit len gen s).mapGoesOn (withReport code cause info) := by
  unfold emitUnit
  cases hroom : orbHasRoom len s
  · simp [hroom, Flow.mapGoesOn]
  · simp only [orbHasRoom_withReport, hroom, if_true]
    exact congrArg Flow.goesOn
      (autoHandoff_withReport code cause info (orbWrite (gen s.phase).1 { s with phase := (gen s.phase).2 }))

theorem unitPass_withReport (n len : Nat) (gen : Word → List Byte × Word) (next : MState) :
    unitPass n len gen next (withReport code cause info s) =
      (unitPass n len gen next s).mapAgain (withReport code cause info) := by
  simp only [unitPass, pollOrBusy_withReport]
  cases pollOrBusy s with
  | ended t => rfl
  | goesOn s1 =>
    simp only [Flow.mapGoesOn, emitUnit_withReport]
    cases emitUnit len gen s1 <;> rfl

theorem dataBytePass_withReport (n : Nat) :
    dataBytePass n (withReport code cause info s) = (dataBytePass n s).mapAgain (withReport code cause info) := by
  simp only [dataBytePass, pollOrBusy_withReport]
  cases pollOrBusy s with
  | ended t => rfl
  | goesOn s1 =>
    simp only [Flow.mapGoesOn, sessionByte_withReport, emitUnit_withReport, withReport_params, withReport_cfg]
    by_cases hsync : sessionByte s1 = Config.syncByte
    · simp only [if_pos hsync]; rfl
    · simp only [if_neg hsync]
      cases emitUnit (frameNs s1.params) (dataFrame s1.params s1.cfg (sessionByte s1)) s1 <;> rfl

theorem dataPass_withReport (n : Nat) :
    dataPass n (withReport code cause info s) = (dataPass n s).mapAgain (withReport code cause info) := by
  simp only [dataPass, withReport_cursor, withReport_sesLen, dataBytePass_withReport]
  split_ifs <;> rfl

theorem drainPass_withReport (n : Nat) :
    drainPass n (withReport code cause info s) = (drainPass n s).mapAgain (withReport code cause info) := by
  simp only [drainPass, withReport_orbSize, pollOrBusy_withReport]
  split_ifs
  · rfl
  · cases pollOrBusy s with
    | ended t => rfl
    | goesOn s1 => simp [Flow.mapGoesOn, Pass.mapAgain]

theorem finishPass_withReport :
    finishPass (withReport code cause info s) = (finishPass s).mapAgain (withReport code cause info) := by
  simp only [finishPass, pollOrBusy_withReport]
  cases pollOrBusy s <;> rfl

/-- A pass (R172) carries the old report along where the loop goes round; where it ends the command, nothing of it is left. -/
theorem sequencerPass_withReport (n : Nat) :
    sequencerPass n (withReport code cause info s) = (sequencerPass n s).mapAgain (withReport code cause info) := by
  unfold sequencerPass
  rw [withReport_mstate]
  cases s.status.mstate with
  | leader | sync0 | sync1 | trailer | flushTone => exact unitPass_withReport ..
  | data => exact dataPass_withReport ..
  | drain => exact drainPass_withReport ..
  | finish => exact finishPass_withReport ..
  | idle => rfl

theorem sequencerLoop_withReport (passes n : Nat) :
    sequencerLoop passes n (withReport code cause info s) = sequencerLoop passes n s := by
  induction passes generalizing n s with
  | zero => rfl
  | succ passes ih =>
    simp only [sequencerLoop, sequencerPass_withReport]
    cases sequencerPass n s with
    | again n' s' => exact ih s' n'
    | done t => rfl
    | idle => rfl

@[simp] theorem runSequencer_withReport : runSequencer (withReport code cause info s) = runSequencer s :=
  sequencerLoop_withReport code cause info s passLimit 0

/-! ### The commands -/

theorem fecSizeBody_withReport : fecSizeBody (withReport code cause info s) = fecSizeBody s := by
  simp only [fecSizeBody, dataSize_withReport, finishError_withReport]
  rfl

theorem fecEncodeBody_withReport : fecEncodeBody (withReport code cause info s) = fecEncodeBody s := by
  simp [fecEncodeBody]

theorem escCountBody_withReport : escCountBody (withReport code cause info s) = escCountBody s := by
  simp only [escCountBody, codBytes_withReport]
  rfl

theorem escEscapeBody_withReport : escEscapeBody (withReport code cause info s) = escEscapeBody s := by
  simp [escEscapeBody]

theorem txStartBody_withReport : txStartBody (withReport code cause info s) = txStartBody s := by
  simp only [txStartBody, withReport_transmitting, withReport_txbLen, raiseFault_withReport, finishError_withReport,
    openSession_withReport, finishWith_withReport]
  rfl

theorem toneBody_withReport (nsamples : Nat) :
    toneBody nsamples (withReport code cause info s) = toneBody nsamples s := by
  simp only [toneBody, pollOrBusy_withReport, withReport_transmitting, raiseFault_withReport]
  cases pollOrBusy s with
  | ended t => rfl
  | goesOn s1 =>
    simp only [Flow.mapGoesOn, emitUnit_withReport, withReport_params, toneWord_withReport]
    cases emitUnit nsamples (synth s1.params (toneWord s1) nsamples) s1 <;> rfl

theorem orbFlushBody_withReport : orbFlushBody (withReport code cause info s) = orbFlushBody s := by
  simp only [orbFlushBody, pollOrBusy_withReport, withReport_orbSize, finishWith_withReport]
  cases pollOrBusy s with
  | ended t => rfl
  | goesOn s1 => simp [Flow.mapGoesOn]

end Report

section Dispatch

variable {code : Code} {cause : Cause} {info : Word} {s : State}

/-- The common check (R220) reads FAULT only, and its refusal ends the command. -/
theorem unlessFaulted_withReport {body : State → Host.Outcome State Fault Refusal}
    (h : body (withReport code cause info s) = body s) :
    unlessFaulted (withReport code cause info s) body = unlessFaulted s body := by
  simp [unlessFaulted, h]

theorem unlessFaulted_next_withReport {body : State → State} (h : body (withReport code cause info s) = body s) :
    unlessFaulted (withReport code cause info s) (fun s => .next (body s)) = unlessFaulted s (fun s => .next (body s)) :=
  unlessFaulted_withReport (congrArg Host.Outcome.next h)

theorem execTxPump_withReport : execTxPump (withReport code cause info s) = execTxPump s :=
  unlessFaulted_withReport (by simp)

theorem execTxCancel_withReport : execTxCancel (withReport code cause info s) = execTxCancel s :=
  unlessFaulted_withReport (by simp)

/-- R25: what a command does depends on no earlier report. -/
theorem exec_withReport (i : Instr) : exec i (withReport code cause info s) = exec i s := by
  cases i with
  | fecSize => exact unlessFaulted_next_withReport (fecSizeBody_withReport code cause info s)
  | fecEncode => exact unlessFaulted_next_withReport (fecEncodeBody_withReport code cause info s)
  | escCount => exact unlessFaulted_next_withReport (escCountBody_withReport code cause info s)
  | escEscape => exact unlessFaulted_next_withReport (escEscapeBody_withReport code cause info s)
  | txStart => exact unlessFaulted_next_withReport (txStartBody_withReport code cause info s)
  | txPump => exact execTxPump_withReport
  | txCancel => exact execTxCancel_withReport
  | tone nsamples => exact unlessFaulted_next_withReport (toneBody_withReport code cause info s nsamples)
  | orbFlush => exact unlessFaulted_next_withReport (orbFlushBody_withReport code cause info s)
  | reset => exact congrArg Host.Outcome.next (doReset_withReport code cause info s)

/-- The same of a CMD write, its word legal or not. -/
theorem executeCmdWrite_withReport (w : Word) :
    executeCmdWrite w (withReport code cause info s) = executeCmdWrite w s := by
  unfold executeCmdWrite
  rw [acceptCmd_withReport]
  cases decode w with
  | ok i => exact exec_withReport i
  | error _ => exact unlessFaulted_next_withReport (raiseFault_withReport code cause info (acceptCmd w s) .illegalCmd w)

end Dispatch

/-- Settles O14: the first half by the three ways a request that is no CMD write is served, the second by carrying the old report
through the command, the sequencer's loop by induction on its passes. -/
theorem statusDescribesTheLastCommand : Obligations.StatusDescribesTheLastCommand := by
  intro s r later hin
  constructor
  · intro hr t ht
    rw [step_of_request hin] at ht
    simpa using serveRequest_keeps_report hr ht
  · intro q hq hc code cause info
    calc step (withReport code cause info s)
      _ = executeCmdWrite q.wdata (withReport code cause info (popInput s)) := by
        rw [step_of_request (s := withReport code cause info s) hin, serveRequest_of_cmdWrite hq hc, popInput_withReport]
      _ = executeCmdWrite q.wdata (popInput s) := executeCmdWrite_withReport ..
      _ = step s := by rw [step_of_request hin, serveRequest_of_cmdWrite hq hc]

end Sys2Proof.Machine

/-! R65 to R68 (20_memory.md): which requests the port refuses. `readReg`, `writeReg`, `portRead` and `portWrite` answer `none`
exactly to the refused requests, a CMD write is none of them, and no command touches the port's responses, so what is not
refused is answered `OK`. -/

namespace Sys2Proof.Machine

/-! ## Which requests the port has no answer for -/

/-- A space code is one of the five of R60, or 5 to 7. -/
theorem spaceCode_cases : ∀ c : BitVec 3, c = 0 ∨ c = 1 ∨ c = 2 ∨ c = 3 ∨ c = 4 ∨ 5 ≤ c.toNat := by decide

/-- Codes 5 to 7 select no space (R60). -/
theorem spaceOfCode_of_le : ∀ {c : BitVec 3}, 5 ≤ c.toNat → spaceOfCode c = none := by decide

/-- CFG takes the words below 4: bits 31:2 are reserved (R30). -/
theorem cfgLegal_iff (v : Word) : cfgLegal v = true ↔ v.toNat < 4 := by
  have hv : v.toNat < 2 ^ 32 := v.isLt
  simp only [cfgLegal, decide_eq_true_eq, ← BitVec.toNat_inj, BitVec.extractLsb'_toNat, Nat.shiftRight_eq_div_pow,
    BitVec.toNat_ofNat, BitVec.ofNat_eq_ofNat]
  omega

/-- SRC takes the words below 256: bits 31:8 must be 0 (R66). -/
theorem byteLegal_iff (v : Word) : v.extractLsb' 8 24 = 0#24 ↔ v.toNat < 256 := by
  have hv : v.toNat < 2 ^ 32 := v.isLt
  simp only [← BitVec.toNat_inj, BitVec.extractLsb'_toNat, Nat.shiftRight_eq_div_pow, BitVec.toNat_ofNat]
  omega

/-- A register stands at every multiple of 4 below 0x38, and nowhere else (R65, R68). -/
theorem readReg_eq_none_iff (off : BitVec 24) (s : State) :
    readReg off s = none ↔ off.toNat % 4 ≠ 0 ∨ 0x38 ≤ off.toNat := by
  simp [readReg, ite_eq_iff, ← BitVec.toNat_inj]
  omega

/-- The writes to a register other than CMD that are refused (R65 to R68): all but those to ARG0, and those of a legal value to
CFG and SRC_LEN outside a session. -/
theorem writeReg_eq_none_iff (off : BitVec 24) (v : Word) (s : State) :
    writeReg off v s = none ↔
      off.toNat ≠ 0x10 ∧ (off.toNat = 0x18 → s.status.transmitting = true ∨ 4 ≤ v.toNat) ∧
        (off.toNat = 0x1C → s.status.transmitting = true ∨ s.params.srcMax < v.toNat) := by
  cases h : s.status.transmitting with
  | false =>
    simp [writeReg, cfgLegal_iff, ite_eq_iff, ← BitVec.toNat_inj, h]
    omega
  | true => simp [writeReg, ← BitVec.toNat_inj, h]

/-- A byte memory is readable exactly inside its space (R64, R65). -/
theorem portRead_mem_eq_none_iff {q : Request} {b : ByteSpace} (h : q.space = codeOfSpace (.mem b)) (s : State) :
    portRead q s = none ↔ spaceSize b s.params ≤ q.offset.toNat := by
  have hspace : spaceOfCode q.space = some (.mem b) := by rw [h]; cases b <;> rfl
  simp [portRead, hspace]

/-- SRC is writable inside its space, a byte at a time, outside a session (R64 to R67). -/
theorem portWrite_src_eq_none_iff {q : Request} (h : q.space = 1) (s : State) :
    portWrite q s = none ↔
      ¬ (q.offset.toNat < s.params.srcMax ∧ q.wdata.toNat < 256 ∧ s.status.transmitting = false) := by
  simp [portWrite, h, spaceOfCode, byteLegal_iff]

/-- A read has no data to answer exactly where it is unmapped or misaligned. -/
theorem portRead_eq_none_iff (q : Request) (s : State) : portRead q s = none ↔ unmapped q s := by
  obtain h | h | h | h | h | h := spaceCode_cases q.space
  · simp [portRead, h, spaceOfCode, unmapped, readReg_eq_none_iff]
  · simp [portRead_mem_eq_none_iff (b := .src) h, spaceSize, unmapped, h]
  · simp [portRead_mem_eq_none_iff (b := .cod) h, spaceSize, unmapped, h]
  · simp [portRead_mem_eq_none_iff (b := .txb) h, spaceSize, unmapped, h]
  · simp [portRead_mem_eq_none_iff (b := .orb) h, spaceSize, unmapped, h]
  · simp [portRead, spaceOfCode_of_le h, unmapped, h]

/-- A write that is no CMD write has no state to go to exactly where R65 to R68 refuse it. -/
theorem portWrite_eq_none_iff {q : Request} (hcmd : ¬ (q.space = 0 ∧ q.offset.toNat = 0x04)) (s : State) :
    portWrite q s = none ↔ unmapped q s ∨ illegalWrite q s ∨ protectedWrite q s := by
  obtain h | h | h | h | h | h := spaceCode_cases q.space
  · have hoff : q.offset.toNat ≠ 0x04 := fun hoff => hcmd ⟨h, hoff⟩
    simp [portWrite, h, spaceOfCode, unmapped, illegalWrite, readOnlyOffsets, protectedWrite, writeReg_eq_none_iff]
    cases s.status.transmitting <;> simp <;> omega
  · simp only [portWrite_src_eq_none_iff h, unmapped, illegalWrite, protectedWrite, h]
    cases s.status.transmitting with
    | false => simp [imp_iff_not_or]
    | true => simp
  · simp [portWrite, h, spaceOfCode, illegalWrite]
  · simp [portWrite, h, spaceOfCode, illegalWrite]
  · simp [portWrite, h, spaceOfCode, illegalWrite]
  · simp [portWrite, spaceOfCode_of_le h, unmapped, h]

theorem isCmdWrite_iff (q : Request) :
    isCmdWrite q = true ↔ q.we = true ∧ q.space = 0 ∧ q.offset.toNat = 0x04 := by
  simp [isCmdWrite, ← BitVec.toNat_inj, and_assoc]

/-- A write to CMD is never refused by the port. -/
theorem not_portRefusal_of_cmdWrite {q : Request} (hc : isCmdWrite q = true) (s : State) : ¬ portRefusal q s := by
  obtain ⟨-, hspace, hoff⟩ := (isCmdWrite_iff q).mp hc
  simp [unmapped, illegalWrite, protectedWrite, readOnlyOffsets, hspace, hoff]

/-- A read has no data to answer exactly where it is refused. -/
theorem portRead_eq_none_iff_refusal {q : Request} (hr : q.we = false) (s : State) :
    portRead q s = none ↔ portRefusal q s := by
  simp [portRead_eq_none_iff, portRefusal, hr]

/-- A write that is no CMD write has no state to go to exactly where it is refused. -/
theorem portWrite_eq_none_iff_refusal {q : Request} (hw : q.we = true) (hc : isCmdWrite q = false) (s : State) :
    portWrite q s = none ↔ portRefusal q s := by
  have hcmd : ¬ (q.space = 0 ∧ q.offset.toNat = 0x04) := fun h => by
    rw [(isCmdWrite_iff q).mpr ⟨hw, h⟩] at hc
    cases hc
  simp only [portWrite_eq_none_iff hcmd, portRefusal, hw, true_and]

/-! ## What a served request answers -/

theorem serveRequest_of_read {r : BitVec 64} {q : Request} (hq : unpackRequest r = some q) (hr : q.we = false) (s : State) :
    serveRequest r s = .next (respond (readResponse q s) s) := by
  simp [serveRequest, hq, isCmdWrite, hr]

theorem serveRequest_of_write {r : BitVec 64} {q : Request} (hq : unpackRequest r = some q) (hw : q.we = true)
    (hc : isCmdWrite q = false) (s : State) : serveRequest r s = .next (serveWrite q s) := by
  simp [serveRequest, hq, hc, hw]

/-- A refused request is answered `ERR` and changes nothing. -/
theorem serveRequest_of_refusal {r : BitVec 64} {q : Request} {s : State} (hq : unpackRequest r = some q)
    (href : portRefusal q s) : serveRequest r s = .next (respond .err s) := by
  cases hw : q.we with
  | false => rw [serveRequest_of_read hq hw, readResponse, (portRead_eq_none_iff_refusal hw s).mpr href]
  | true =>
    have hc : isCmdWrite q = false := Bool.eq_false_iff.mpr (fun hc => not_portRefusal_of_cmdWrite hc s href)
    rw [serveRequest_of_write hq hw hc, serveWrite, (portWrite_eq_none_iff_refusal hw hc s).mpr href]

theorem portWrite_responses {q : Request} {s t : State} (h : portWrite q s = some t) : t.responses = s.responses := by
  obtain hreg | rfl := portWrite_cases h
  · obtain rfl | rfl | rfl := writeReg_cases hreg <;> rfl
  · rfl

/-- A request that is neither refused nor a CMD write is answered `OK`. -/
theorem serveRequest_of_served {r : BitVec 64} {q : Request} {s : State} (hq : unpackRequest r = some q)
    (hserved : ¬ portRefusal q s) (hc : isCmdWrite q = false) :
    ∃ t v, serveRequest r s = .next t ∧ t.responses = s.responses ++ [.ok v] := by
  cases hw : q.we with
  | false =>
    obtain ⟨v, hv⟩ := Option.ne_none_iff_exists'.mp (mt (portRead_eq_none_iff_refusal hw s).mp hserved)
    exact ⟨_, v, serveRequest_of_read hq hw s, by simp [readResponse, hv]⟩
  | true =>
    obtain ⟨t, ht⟩ := Option.ne_none_iff_exists'.mp (mt (portWrite_eq_none_iff_refusal hw hc s).mp hserved)
    exact ⟨_, 0, serveRequest_of_write hq hw hc s, by simp [serveWrite, ht, portWrite_responses ht]⟩

/-! ## No command touches the host's side of the machine -/

/-- What stands on the host's side of a command: the configuration (R50), the word in CMD, the events still to be served, the port
responses and the number of power-ons. -/
def hostSide (s : State) : Params × Word × List Input × List Response × Nat :=
  (s.params, s.cmd, s.inputs, s.responses, s.powerOns)

/-- The state a part of a command leaves, whether the command goes on from it or has ended in it. -/
def Flow.state : Flow → State
  | .goesOn s => s
  | .ended s => s

/-- A pass of the sequencer's loop leaves a state with `P`, if it leaves one. -/
def Pass.Leaves (P : State → Prop) : Pass → Prop
  | .again _ s => P s
  | .done s => P s
  | .idle => True

theorem hostSide_pollOrBusy {s : State} {f : Flow} (h : pollOrBusy s = f) : hostSide f.state = hostSide s := by
  obtain ⟨-, hp⟩ | ⟨-, hp⟩ := pollOrBusy_cases s <;> cases hp.symm.trans h <;> simp [hostSide, Flow.state]

theorem hostSide_emitUnit {len : Nat} {gen : Word → List Byte × Word} {s : State} {f : Flow} (h : emitUnit len gen s = f) :
    hostSide f.state = hostSide s := by
  obtain ⟨-, he⟩ | ⟨-, he⟩ := emitUnit_cases len gen s <;> cases he.symm.trans h <;> simp [hostSide, Flow.state]

theorem unitPass_hostSide (n len : Nat) (gen : Word → List Byte × Word) (next : MState) (s : State) :
    (unitPass n len gen next s).Leaves (fun t => hostSide t = hostSide s) := by
  obtain ⟨t, hp, h⟩ | ⟨s1, t, hp, he, h⟩ | ⟨s1, s2, hp, he, h⟩ := unitPass_cases n len gen next s <;> rw [h]
  · exact hostSide_pollOrBusy hp
  · exact (hostSide_emitUnit he).trans (hostSide_pollOrBusy hp)
  · exact (hostSide_emitUnit he).trans (hostSide_pollOrBusy hp)

theorem dataBytePass_hostSide (n : Nat) (s : State) :
    (dataBytePass n s).Leaves (fun t => hostSide t = hostSide s) := by
  obtain ⟨t, hp, h⟩ | ⟨s1, hp, -, h⟩ | ⟨s1, t, hp, -, he, h⟩ | ⟨s1, s2, hp, -, he, h⟩ :=
    dataBytePass_cases n s <;> rw [h]
  · exact hostSide_pollOrBusy hp
  · exact hostSide_pollOrBusy hp
  · exact (hostSide_emitUnit he).trans (hostSide_pollOrBusy hp)
  · exact (hostSide_emitUnit he).trans (hostSide_pollOrBusy hp)

theorem dataPass_hostSide (n : Nat) (s : State) : (dataPass n s).Leaves (fun t => hostSide t = hostSide s) := by
  obtain ⟨-, -, h⟩ | ⟨-, -, h⟩ | ⟨-, -, h⟩ | ⟨-, -, h⟩ := dataPass_cases n s <;> rw [h]
  · rfl
  · rfl
  · rfl
  · exact dataBytePass_hostSide n s

theorem drainPass_hostSide (n : Nat) (s : State) : (drainPass n s).Leaves (fun t => hostSide t = hostSide s) := by
  obtain ⟨-, h⟩ | ⟨t, -, hp, h⟩ | ⟨s1, -, hp, h⟩ := drainPass_cases n s <;> rw [h]
  · rfl
  · exact hostSide_pollOrBusy hp
  · calc hostSide (setMState .finish (orbFlush s1))
      _ = hostSide s1 := by simp [hostSide]
      _ = hostSide s := hostSide_pollOrBusy hp

theorem finishPass_hostSide (s : State) : (finishPass s).Leaves (fun t => hostSide t = hostSide s) := by
  obtain ⟨t, hp, h⟩ | ⟨s1, hp, h⟩ := finishPass_cases s <;> rw [h]
  · exact hostSide_pollOrBusy hp
  · exact hostSide_pollOrBusy hp

theorem sequencerPass_hostSide (n : Nat) (s : State) : (sequencerPass n s).Leaves (fun t => hostSide t = hostSide s) := by
  unfold sequencerPass
  cases s.status.mstate with
  | leader | sync0 | sync1 | trailer | flushTone => exact unitPass_hostSide ..
  | data => exact dataPass_hostSide n s
  | drain => exact drainPass_hostSide n s
  | finish => exact finishPass_hostSide s
  | idle => trivial

theorem runSequencer_hostSide {s t : State} (h : runSequencer s = .next t) : hostSide t = hostSide s := by
  refine sequencerLoop_induction (P := fun _ u => hostSide u = hostSide s) (Q := fun u => hostSide u = hostSide s)
    ?_ ?_ rfl h
  · intro n u n' u' hu hpass
    have := sequencerPass_hostSide n u
    rw [hpass] at this
    exact this.trans hu
  · intro n u u' hu hpass
    have := sequencerPass_hostSide n u
    rw [hpass] at this
    exact this.trans hu

theorem fecSizeBody_hostSide (s : State) : hostSide (fecSizeBody s) = hostSide s := by
  unfold fecSizeBody; split <;> rfl

theorem fecEncodeBody_hostSide (s : State) : hostSide (fecEncodeBody s) = hostSide s := by
  unfold fecEncodeBody; split_ifs <;> rfl

theorem escEscapeBody_hostSide (s : State) : hostSide (escEscapeBody s) = hostSide s := by
  unfold escEscapeBody; split_ifs <;> rfl

theorem txStartBody_hostSide (s : State) : hostSide (txStartBody s) = hostSide s := by
  unfold txStartBody; split_ifs <;> rfl

theorem toneBody_hostSide (nsamples : Nat) (s : State) : hostSide (toneBody nsamples s) = hostSide s := by
  unfold toneBody
  split
  · rfl
  · split
    next t hp => exact hostSide_pollOrBusy hp
    next s1 hp =>
      split
      next t he => exact (hostSide_emitUnit he).trans (hostSide_pollOrBusy hp)
      next s2 he => exact (hostSide_emitUnit he).trans (hostSide_pollOrBusy hp)

theorem orbFlushBody_hostSide (s : State) : hostSide (orbFlushBody s) = hostSide s := by
  unfold orbFlushBody
  split
  · rfl
  · split
    next t hp => exact hostSide_pollOrBusy hp
    next s1 hp =>
      calc hostSide (finishWith .ok (orbFlush s1))
        _ = hostSide s1 := by simp [hostSide]
        _ = hostSide s := hostSide_pollOrBusy hp

/-- The common check (R220) ends the command without touching the host's side. -/
theorem unlessFaulted_hostSide {body : State → Host.Outcome State Fault Refusal} {s t : State}
    (hbody : body s = .next t → hostSide t = hostSide s) (h : unlessFaulted s body = .next t) : hostSide t = hostSide s := by
  obtain ⟨-, hs⟩ | ⟨-, hs⟩ := unlessFaulted_cases s body
  · cases hs.symm.trans h
    rfl
  · exact hbody (hs.symm.trans h)

theorem unlessFaulted_next_hostSide {body : State → State} {s t : State} (hbody : hostSide (body s) = hostSide s)
    (h : unlessFaulted s (fun s => .next (body s)) = .next t) : hostSide t = hostSide s :=
  unlessFaulted_hostSide (fun hb => by cases hb; exact hbody) h

theorem execTxPump_hostSide {s t : State} (h : execTxPump s = .next t) : hostSide t = hostSide s := by
  refine unlessFaulted_hostSide (fun hb => ?_) h
  split at hb
  · exact runSequencer_hostSide hb
  · cases hb
    rfl

theorem execTxCancel_hostSide {s t : State} (h : execTxCancel s = .next t) : hostSide t = hostSide s := by
  refine unlessFaulted_hostSide (fun hb => ?_) h
  split at hb
  · calc hostSide t
      _ = hostSide (beginCancel s) := runSequencer_hostSide hb
      _ = hostSide s := by simp [hostSide]
  · cases hb
    rfl

theorem exec_hostSide {i : Instr} {s t : State} (h : exec i s = .next t) : hostSide t = hostSide s := by
  cases i with
  | fecSize => exact unlessFaulted_next_hostSide (fecSizeBody_hostSide s) h
  | fecEncode => exact unlessFaulted_next_hostSide (fecEncodeBody_hostSide s) h
  | escCount => exact unlessFaulted_next_hostSide (body := escCountBody) rfl h
  | escEscape => exact unlessFaulted_next_hostSide (escEscapeBody_hostSide s) h
  | txStart => exact unlessFaulted_next_hostSide (txStartBody_hostSide s) h
  | txPump => exact execTxPump_hostSide h
  | txCancel => exact execTxCancel_hostSide h
  | tone nsamples => exact unlessFaulted_next_hostSide (toneBody_hostSide nsamples s) h
  | orbFlush => exact unlessFaulted_next_hostSide (orbFlushBody_hostSide s) h
  | reset =>
    cases h
    rfl

/-- A CMD write, its word legal or not, leaves the host's side as its acceptance does (R220). -/
theorem executeCmdWrite_hostSide {w : Word} {s t : State} (h : executeCmdWrite w s = .next t) :
    hostSide t = hostSide (acceptCmd w s) := by
  unfold executeCmdWrite at h
  split at h
  · exact exec_hostSide h
  · exact unlessFaulted_next_hostSide (body := raiseFault .illegalCmd w) rfl h

/-- A CMD write is answered `OK(0)`, whatever its command does (R220). -/
theorem executeCmdWrite_responses {w : Word} {s t : State} (h : executeCmdWrite w s = .next t) :
    t.responses = s.responses ++ [.ok 0] := by
  have hside := executeCmdWrite_hostSide h
  simp only [hostSide, Prod.mk.injEq] at hside
  obtain ⟨-, -, -, hresponses, -⟩ := hside
  exact hresponses

/-! ## The statement -/

/-- Settles O9: a refused request by the `none` of `portRead` or `portWrite`, a served one by their `some`, a CMD write by its
acceptance, which its command leaves alone. Taking the request off the host's list changes nothing a refusal reads. -/
theorem portRefusesExactly : Obligations.PortRefusesExactly := by
  intro s r later hin
  rw [step_of_request hin]
  have herr : respond .err (popInput s) = { s with inputs := later, responses := s.responses ++ [.err] } := by
    simp [respond, popInput, hin]
  refine ⟨?_, fun q hq hserved => ⟨fun hc => ?_, fun t ht => ?_⟩⟩
  · rw [← herr]
    rintro (hnone | ⟨q, hq, href⟩)
    · simp [serveRequest, hnone]
    · exact serveRequest_of_refusal (s := popInput s) hq href
  · obtain ⟨t, _, ht, -⟩ := serveRequest_of_served (s := popInput s) hq hserved hc
    exact ⟨t, ht⟩
  · cases hc : isCmdWrite q with
    | false =>
      obtain ⟨t', v, ht', hv⟩ := serveRequest_of_served (s := popInput s) hq hserved hc
      cases ht'.symm.trans ht
      exact ⟨v, hv⟩
    | true =>
      rw [serveRequest_of_cmdWrite hq hc] at ht
      exact ⟨0, executeCmdWrite_responses (s := popInput s) ht⟩

end Sys2Proof.Machine

/-! R97 (30_encoding.md): the illegal command word. A pending CMD write is unpacked to the request it was packed from, accepted, and
its command executed (R220); an illegal word's command is one `Fault` behind the common check. -/

namespace Sys2Proof.Machine

/-! ## The fields of a packed request (R90) -/

section PackedFields

variable (q : Request)

theorem packRequest_wdata : (packRequest q).extractLsb' 0 32 = q.wdata := BitVec.extractLsb'_append_eq_right

theorem packRequest_offset : (packRequest q).extractLsb' 32 24 = q.offset :=
  (BitVec.extractLsb'_append_eq_of_le (by decide)).trans BitVec.extractLsb'_append_eq_right

/-- What is cut out above WDATA and OFFSET is cut out of the upper byte. -/
theorem packRequest_upperByte {start len : Nat} (h : 56 ≤ start) :
    (packRequest q).extractLsb' start len = (BitVec.ofBool q.we ++ q.space ++ 0#4).extractLsb' (start - 32 - 24) len :=
  (BitVec.extractLsb'_append_eq_of_le (by omega)).trans (BitVec.extractLsb'_append_eq_of_le (by omega))

theorem packRequest_zeroField : (packRequest q).extractLsb' 56 4 = 0 :=
  (packRequest_upperByte q (by decide)).trans BitVec.extractLsb'_append_eq_right

theorem packRequest_space : (packRequest q).extractLsb' 60 3 = q.space := by
  rw [packRequest_upperByte q (by decide), BitVec.extractLsb'_append_eq_of_le (by decide)]
  exact BitVec.extractLsb'_append_eq_right

theorem packRequest_we : (packRequest q).getLsbD 63 = q.we := by
  have hbit : (packRequest q).extractLsb' 63 1 = BitVec.ofBool q.we := by
    rw [packRequest_upperByte q (by decide), BitVec.extractLsb'_append_eq_of_le (by decide)]
    exact BitVec.extractLsb'_append_eq_left
  simpa using congrArg (BitVec.getLsbD · 0) hbit

end PackedFields

/-! ## The step that serves a CMD write -/

/-- A packed request unpacks to itself (R90). -/
theorem unpackRequest_packRequest (q : Request) : unpackRequest (packRequest q) = some q := by
  rw [unpackRequest, if_pos (packRequest_zeroField q), packRequest_we, packRequest_space, packRequest_offset,
    packRequest_wdata]

/-- A CMD write at the head of the host's list is executed from the state without it (R220). -/
theorem step_of_cmdWrite {s : State} {w : Word} {later : List Input}
    (h : s.inputs = .request (packRequest (cmdRequest w)) :: later) : step s = executeCmdWrite w (popInput s) := by
  rw [step_of_request h]
  exact serveRequest_of_cmdWrite (unpackRequest_packRequest (cmdRequest w)) rfl (popInput s)

/-- The state a command starts from (R220): its request taken, its word in CMD, the port's `OK(0)` given. -/
theorem acceptCmd_popInput {s : State} {x : Input} {later : List Input} (h : s.inputs = x :: later) (w : Word) :
    acceptCmd w (popInput s) = { s with inputs := later, cmd := w, responses := s.responses ++ [.ok 0] } := by
  simp [acceptCmd, respond, popInput, h]

/-! ## The illegal word -/

theorem executeCmdWrite_of_error {w : Word} {e : DecodeError} (h : decode w = .error e) (s : State) :
    executeCmdWrite w s = execIllegal w (acceptCmd w s) := by
  simp [executeCmdWrite, h]

/-- `Fault` where FAULT = 0: FCAUSE takes the cause (R233). -/
theorem raiseFault_of_clear {s : State} (h : s.status.fault = false) (cause : Cause) (info : Word) :
    raiseFault cause info s = { s with status := statusFaulted cause s.status, errinfo := info } := by
  simp [raiseFault, finish, statusFaulted, h]

/-- An illegal word with FAULT = 0 takes EC_ILLEGAL_CMD with the word as its detail. -/
theorem execIllegal_of_clear {s : State} (h : s.status.fault = false) (w : Word) :
    execIllegal w s = .next { s with status := statusFaulted .illegalCmd s.status, errinfo := w } := by
  rw [execIllegal, unlessFaulted_of_clear h, raiseFault_of_clear h]

/-- An illegal word with FAULT = 1 is refused as every command is (R234). -/
theorem execIllegal_of_fault {s : State} (h : s.status.fault = true) (w : Word) :
    execIllegal w s = .next { s with status := statusAfter .error .faulted s.status, errinfo := 0 } :=
  unlessFaulted_of_fault h _

/-- Settles O7: the step executes the word's CMD write, the word has no command, and accepting it leaves FAULT as it is, so the two
clauses are the two outcomes of the common check. -/
theorem illegalWordFaults : Obligations.IllegalWordFaults := by
  intro s w later e hin hw
  rw [step_of_cmdWrite hin, executeCmdWrite_of_error hw, acceptCmd_popInput hin]
  constructor
  · intro hclear
    apply execIllegal_of_clear
    exact hclear
  · intro hfault
    apply execIllegal_of_fault
    exact hfault

end Sys2Proof.Machine

/-! The two commands of the FEC unit (40_fec.md): the size that FEC_SIZE computes (R118, R121), and where FEC_ENCODE puts its
codewords (R122). A codeword is 255 bytes, so codeword `c` of the concatenation written to COD is its bytes from 255c on. -/

namespace Sys2Proof.Machine

/-! ## The common check and the error ends -/

/-- A command that makes the common check first is refused while FAULT = 1 (R220, R234). -/
theorem refusedWhileFaulted_of_exec {i : Instr} {s : State} {body : State → Host.Outcome State Fault Refusal}
    (h : exec i s = unlessFaulted s body) : refusedWhileFaulted i s :=
  fun hfault => h.trans (unlessFaulted_of_fault hfault body)

theorem finishError_eq (cause : Cause) (s : State) :
    finishError cause s = { s with status := statusAfter .error cause s.status, errinfo := 0 } := rfl

theorem exec_fecSize (s : State) : exec .fecSize s = unlessFaulted s (fun s => .next (fecSizeBody s)) := rfl

theorem exec_fecEncode (s : State) : exec .fecEncode s = unlessFaulted s (fun s => .next (fecEncodeBody s)) := rfl

theorem exec_fecSize_of_clear {s : State} (h : s.status.fault = false) : exec .fecSize s = .next (fecSizeBody s) := by
  rw [exec_fecSize, unlessFaulted_of_clear h]

theorem exec_fecEncode_of_clear {s : State} (h : s.status.fault = false) :
    exec .fecEncode s = .next (fecEncodeBody s) := by
  rw [exec_fecEncode, unlessFaulted_of_clear h]

/-- A number that fits a register reads back from it. -/
theorem toNat_word {n : Nat} (h : n ≤ 0xFFFFFFFF) : (BitVec.ofNat 32 n).toNat = n := by
  rw [BitVec.toNat_ofNat, Nat.mod_eq_of_lt (by omega)]

/-! ## The encoded size (R118) -/

theorem fecSize_eq (d : Nat) : fecSize d = (d + 222) / 223 * 255 := rfl

/-- The source's branch for a last chunk that is not full. -/
theorem fecSize_of_partial {d : Nat} (h : d % 223 ≠ 0) : fecSize d = (d / 223 + 1) * 255 := by
  rw [fecSize_eq]; omega

/-- The source's branch for full chunks only: 32 parity bytes for each. -/
theorem fecSize_of_full {d : Nat} (h : d % 223 = 0) : fecSize d = d + d / 223 * 32 := by
  rw [fecSize_eq]; omega

/-- The largest data whose encoded size a register holds is (2^32 − 1) / 255 = 16843009 full chunks. -/
theorem fecSize_fits_iff (d : Nat) : fecSize d ≤ 0xFFFFFFFF ↔ d ≤ 3755991007 := by
  rw [fecSize_eq]; omega

theorem fecSizeBody_of_fits {s : State} (h : fecSize (dataSize s) ≤ 0xFFFFFFFF) :
    fecSizeBody s = finishWith .ok { s with res0 := BitVec.ofNat 32 (fecSize (dataSize s)) } :=
  if_neg (Nat.not_lt.mpr h)

theorem fecSizeBody_of_overflow {s : State} (h : 0xFFFFFFFF < fecSize (dataSize s)) :
    fecSizeBody s = finishError .validation s :=
  if_pos h

/-- Settles O30: the two ends of the command are the two sides of `fecSize_fits_iff`, and the source's two branches are two
readings of the one size. -/
theorem fecSizeComputesTheEncodedSize : Obligations.FecSizeComputesTheEncodedSize := by
  refine ⟨by decide, fun s => ⟨refusedWhileFaulted_of_exec (exec_fecSize s), fun hclear => ⟨fun hfits => ?_, fun hover => ?_⟩⟩⟩
  · have hsize : fecSize (dataSize s) ≤ 0xFFFFFFFF := (fecSize_fits_iff s.arg0.toNat).mpr hfits
    have hres : (BitVec.ofNat 32 (fecSize (dataSize s))).toNat = fecSize (dataSize s) := toNat_word hsize
    refine ⟨_, (exec_fecSize_of_clear hclear).trans (congrArg _ (fecSizeBody_of_fits hsize)), rfl, hres, ?_, ?_⟩
    · exact fun hpartial => hres.trans (fecSize_of_partial hpartial)
    · exact fun hfull => hres.trans (fecSize_of_full hfull)
  · have hsize : ¬ fecSize (dataSize s) ≤ 0xFFFFFFFF := (fecSize_fits_iff s.arg0.toNat).not.mpr (Nat.not_le.mpr hover)
    rw [exec_fecSize_of_clear hclear, fecSizeBody_of_overflow (Nat.lt_of_not_le hsize), finishError_eq]

/-! ## The length of a codeword -/

theorem paddedMessage_length {chunk : List Byte} (h : chunk.length ≤ 223) : (paddedMessage chunk).length = 223 := by
  simp only [paddedMessage, Config.rsK, List.length_append, List.length_replicate]; omega

theorem timesRoot_length (prim : BitVec 9) (g : List Byte) (r : Byte) : (timesRoot prim g r).length = g.length + 1 := by
  simp [timesRoot]

theorem foldl_timesRoot_length (prim : BitVec 9) (roots g : List Byte) :
    (roots.foldl (timesRoot prim) g).length = g.length + roots.length := by
  induction roots generalizing g with
  | nil => rfl
  | cons r roots ih => rw [List.foldl_cons, ih, timesRoot_length, List.length_cons]; omega

/-- GEN has 33 coefficients (R42). -/
theorem generator_length (prim : BitVec 9) : (generator prim).length = 33 := by
  simp [generator, foldl_timesRoot_length, generatorRoots, Config.rsT2]

theorem parStep_length {par : List Byte} (h : par.length = 32) (prim : BitVec 9) (m : Byte) :
    (parStep prim (generator prim) par m).length = 32 := by
  simp [parStep, generator_length, h]

theorem foldl_parStep_length {par : List Byte} (h : par.length = 32) (prim : BitVec 9) (message : List Byte) :
    (message.foldl (parStep prim (generator prim)) par).length = 32 := by
  induction message generalizing par with
  | nil => exact h
  | cons m message ih => rw [List.foldl_cons, ih (parStep_length h prim m)]

theorem parAfter_length (prim : BitVec 9) (message : List Byte) : (parAfter prim message).length = 32 := by
  rw [parAfter, foldl_parStep_length List.length_replicate]

theorem encodeBlock_length (prim : BitVec 9) {chunk : List Byte} (h : chunk.length ≤ 223) :
    (encodeBlock prim chunk).length = 255 := by
  simp [encodeBlock, paddedMessage_length h, parAfter_length]

/-! ## The codewords one after the other (R122) -/

theorem srcChunk_length_le (c : Nat) (s : State) : (srcChunk c s).length ≤ 223 := by
  simp only [srcChunk, Config.rsK, bytesAt_length]; omega

@[simp] theorem codewords_length (s : State) : (codewords s).length = chunkCount (srcLength s) := by simp [codewords]

/-- The lengths of the codewords: 255 each. -/
theorem map_length_codewords (s : State) :
    (codewords s).map List.length = List.replicate (chunkCount (srcLength s)) 255 := by
  refine List.eq_replicate_iff.mpr ⟨by simp, fun n hn => ?_⟩
  simp only [codewords, List.map_map, List.mem_map] at hn
  obtain ⟨c, -, rfl⟩ := hn
  exact encodeBlock_length _ (srcChunk_length_le c s)

theorem codewords_flatten_length (s : State) :
    (codewords s).flatten.length = chunkCount (srcLength s) * 255 := by
  rw [List.length_flatten, map_length_codewords, List.sum_replicate, smul_eq_mul]

/-- Codeword `c` stands in the concatenation from byte 255c on. -/
theorem codeword_in_flatten {s : State} {c : Nat} (h : c < chunkCount (srcLength s)) :
    ((codewords s).flatten.drop (255 * c)).take 255 = encodeBlock s.params.rsPrim (srcChunk c s) := by
  have hword := List.drop_take_succ_flatten_eq_getElem (codewords s) c (by simpa using h)
  rw [map_length_codewords, List.take_replicate, List.take_replicate, List.sum_replicate, List.sum_replicate,
    Nat.min_eq_left h, Nat.min_eq_left (Nat.le_of_lt h), smul_eq_mul, smul_eq_mul, List.drop_take] at hword
  simpa [codewords, Nat.mul_comm, show (c + 1) * 255 - c * 255 = 255 by omega] using hword

/-- A run of bytes inside a run just stored from offset 0. -/
theorem bytesAt_storeBytes_zero (b : ByteSpace) {base n : Nat} {bs : List Byte} (h : base + n ≤ bs.length) (s : State) :
    bytesAt b base n (storeBytes b 0 bs s) = (bs.drop base).take n := by
  refine List.ext_getElem (by simp; omega) (fun i hi _ => ?_)
  rw [bytesAt_length] at hi
  rw [bytesAt_getElem b base n i _ hi, List.getElem_take, List.getElem_drop]
  simpa using byteAt_storeBytes_inside b 0 (base + i) bs s (by omega)

/-- In COD the command leaves what a store of the codewords at offset 0 leaves. -/
theorem byteAt_encodeSource_cod (a : Nat) (s : State) :
    byteAt .cod a (finishWith .ok (encodeSource s)) = byteAt .cod a (storeBytes .cod 0 (codewords s).flatten s) := rfl

theorem bytesAt_encodeSource_cod (base n : Nat) (s : State) :
    bytesAt .cod base n (finishWith .ok (encodeSource s)) =
      bytesAt .cod base n (storeBytes .cod 0 (codewords s).flatten s) :=
  bytesAt_congr (fun a _ _ => byteAt_encodeSource_cod a s)

/-! ## FEC_ENCODE -/

theorem fecEncodeBody_of_transmitting {s : State} (h : s.status.transmitting = true) :
    fecEncodeBody s = raiseFault .badState 0 s := if_pos h

theorem fecEncodeBody_of_empty {s : State} (ht : s.status.transmitting = false) (h : s.srcLen = 0) :
    fecEncodeBody s = finishError .validation s := by
  simp [fecEncodeBody, ht, srcLength, h]

theorem fecEncodeBody_of_data {s : State} (ht : s.status.transmitting = false) (h : s.srcLen ≠ 0) :
    fecEncodeBody s = finishWith .ok (encodeSource s) := by
  have hlen : srcLength s ≠ 0 := fun h0 => h (BitVec.eq_of_toNat_eq h0)
  simp [fecEncodeBody, ht, hlen]

/-- Settles O31: the command's ends in the order of its checks; where it encodes, COD is the concatenated codewords stored
from offset 0, of which `codeword_in_flatten` reads one. -/
theorem fecEncodeWritesTheCodewords : Obligations.FecEncodeWritesTheCodewords := by
  refine ⟨by decide, fun s => ⟨refusedWhileFaulted_of_exec (exec_fecEncode s), fun hclear => ?_⟩⟩
  rw [exec_fecEncode_of_clear hclear]
  refine ⟨fun ht => ?session, fun ht hempty => ?empty, fun ht hdata hlt => ?encoded⟩
  case session => rw [fecEncodeBody_of_transmitting ht, raiseFault_of_clear hclear]
  case empty => rw [fecEncodeBody_of_empty ht hempty, finishError_eq]
  case encoded =>
    have hcount : chunkCount (srcLength s) = (s.srcLen.toNat + 222) / 223 := rfl
    refine ⟨_, congrArg _ (fecEncodeBody_of_data ht hdata), rfl, ?_, rfl, fun c hc => ?_, fun a ha => ?_⟩
    · have hfits : 255 * chunkCount (srcLength s) ≤ 0xFFFFFFFF := by omega
      exact (toNat_word hfits).trans (Nat.mul_comm ..)
    · have hin : 255 * c + 255 ≤ (codewords s).flatten.length := by rw [codewords_flatten_length]; omega
      rw [bytesAt_encodeSource_cod, bytesAt_storeBytes_zero .cod hin, codeword_in_flatten hc, srcChunk, srcLength]
    · rw [byteAt_encodeSource_cod]
      exact byteAt_storeBytes_above .cod 0 a _ s (by rw [codewords_flatten_length]; omega)

end Sys2Proof.Machine

/-! R124 (40_fec.md): the block encoder is linear. A doubling is linear in its operand, so `GfMul` is linear in its first operand and
one symbol of the shift register is linear in the register and the symbol together; the remainder is that step folded over the
message. Where a message is zero but for a 0x01 in its last place, only that symbol changes the register, and 1 times GEN is GEN. -/

namespace Sys2Proof.Machine

/-! ## A doubling -/

/-- A doubling is a shift, and, where bit 7 falls out, the ⊕ of the field polynomial's low byte. -/
theorem gfDouble_eq (prim : BitVec 9) (x : Byte) :
    gfDouble prim x = (x <<< 1) ^^^ (if x.getLsbD 7 then prim.extractLsb' 0 8 else 0) := by
  have hlow : (x.zeroExtend 9 <<< 1).extractLsb' 0 8 = x <<< 1 := by
    ext i hi
    simp [BitVec.getLsbD_eq_getElem (show i - 1 < 8 by omega), Nat.lt_succ_of_lt hi]
  unfold gfDouble
  split
  · rw [BitVec.extractLsb'_xor, hlow]
  · simp [hlow]

theorem ite_bne_eq_xor (a b : Bool) (r : Byte) :
    (if a ^^ b then r else 0) = (if a then r else 0) ^^^ (if b then r else 0) := by
  cases a <;> cases b <;> simp

theorem gfDouble_xor (prim : BitVec 9) (x y : Byte) : gfDouble prim (x ^^^ y) = gfDouble prim x ^^^ gfDouble prim y := by
  rw [gfDouble_eq, gfDouble_eq, gfDouble_eq, BitVec.shiftLeft_xor_distrib, BitVec.getLsbD_xor, ite_bne_eq_xor]
  ac_rfl

/-- Below bit 7 a doubling does not meet the field polynomial. -/
theorem gfDouble_twoPow (prim : BitVec 9) {i : Nat} (h : i < 7) :
    gfDouble prim (BitVec.twoPow 8 i) = BitVec.twoPow 8 (i + 1) := by
  have hclear : (BitVec.twoPow 8 i).getLsbD 7 = false := by simp [h.ne']
  rw [gfDouble_eq, hclear]
  simp [BitVec.twoPow_eq, BitVec.shiftLeft_add]

/-! ## `GfMul` is linear in its first operand -/

theorem gfMulLoop_xor (prim : BitVec 9) (b : Byte) (n i : Nat) (p q x y : Byte) :
    gfMulLoop prim b n i (p ^^^ q) (x ^^^ y) = gfMulLoop prim b n i p x ^^^ gfMulLoop prim b n i q y := by
  induction n generalizing i p q x y with
  | zero => rfl
  | succ n ih =>
    have hprod : (if b.getLsbD i then p ^^^ q ^^^ (x ^^^ y) else p ^^^ q) =
        (if b.getLsbD i then p ^^^ x else p) ^^^ (if b.getLsbD i then q ^^^ y else q) := by
      split
      · ac_rfl
      · rfl
    rw [gfMulLoop, hprod, gfDouble_xor, ih, gfMulLoop, gfMulLoop]

theorem gfMul_xor_left (prim : BitVec 9) (a b c : Byte) : gfMul prim (a ^^^ b) c = gfMul prim a c ^^^ gfMul prim b c :=
  gfMulLoop_xor prim c 8 0 0 0 a b

/-! ## 1 is the one of `GfMul` -/

/-- The bits of `b` below bit `i`. -/
def lowBits (b : Byte) (i : Nat) : Byte := (b.setWidth i).setWidth 8

theorem getElem_lowBits (b : Byte) {i j : Nat} (hj : j < 8) : (lowBits b i)[j] = (decide (j < i) && b.getLsbD j) := by
  simp [lowBits]

theorem lowBits_zero (b : Byte) : lowBits b 0 = 0 := by
  ext j hj
  simp [getElem_lowBits]

theorem lowBits_eight (b : Byte) : lowBits b 8 = b := by simp [lowBits]

theorem lowBits_succ (b : Byte) (i : Nat) :
    lowBits b (i + 1) = if b.getLsbD i then lowBits b i ^^^ BitVec.twoPow 8 i else lowBits b i := by
  ext j hj
  rcases eq_or_ne j i with rfl | hne
  · cases hb : b.getLsbD j <;> simpa [getElem_lowBits, hj] using hb
  · have hbelow : j ≤ i ↔ j < i := by omega
    cases b.getLsbD i <;> simp [getElem_lowBits, hne, hbelow]

/-- With the bits of `b` below bit `i` in the product and 1 doubled `i` times, the loop ends with all of `b`. After the last
bit the multiplicand is not used, so no doubling that counts is reduced. -/
theorem gfMulLoop_one (prim : BitVec 9) (b : Byte) {n i : Nat} (h : i + n = 8) {x : Byte}
    (hx : 0 < n → x = BitVec.twoPow 8 i) : gfMulLoop prim b n i (lowBits b i) x = b := by
  induction n generalizing i x with
  | zero =>
    obtain rfl : i = 8 := h
    exact lowBits_eight b
  | succ n ih =>
    rw [gfMulLoop, hx n.succ_pos, ← lowBits_succ]
    exact ih (by omega) (fun hn => gfDouble_twoPow prim (by omega))

theorem gfMul_one_left (prim : BitVec 9) (b : Byte) : gfMul prim 1 b = b := by
  have hloop := gfMulLoop_one prim b (n := 8) (i := 0) (x := 1) rfl (fun _ => rfl)
  rwa [lowBits_zero] at hloop

/-! ## Runs of bytes under ⊕ -/

/-- The ⊕ of two runs of bytes, place by place. -/
abbrev xorBytes (a b : List Byte) : List Byte := List.zipWith (fun x y => x ^^^ y) a b

theorem xorBytes_cons (x y : Byte) (a b : List Byte) : xorBytes (x :: a) (y :: b) = (x ^^^ y) :: xorBytes a b := rfl

theorem xorBytes_self (a : List Byte) : xorBytes a a = List.replicate a.length 0 := by
  simp [List.zipWith_self]

theorem getD_xorBytes {a b : List Byte} (h : a.length = b.length) (i : Nat) :
    (xorBytes a b).getD i 0 = a.getD i 0 ^^^ b.getD i 0 := by
  rcases Nat.lt_or_ge i b.length with hi | hi <;> simp [List.getD_eq_getElem?_getD, h, hi]

/-! ## One symbol of the shift register -/

/-- GEN times the feedback, ⊕ the shifted register, is linear in both. -/
theorem zipWith_feedback_xor (prim : BitVec 9) (u v : Byte) (gen a b : List Byte) :
    List.zipWith (fun before g => before ^^^ gfMul prim (u ^^^ v) g) (xorBytes a b) gen =
      xorBytes (List.zipWith (fun before g => before ^^^ gfMul prim u g) a gen)
        (List.zipWith (fun before g => before ^^^ gfMul prim v g) b gen) := by
  induction gen generalizing a b with
  | nil => simp
  | cons g gen ih =>
    match a, b with
    | [], _ => simp
    | _ :: _, [] => simp
    | x :: a, y :: b =>
      simp only [List.zipWith_cons_cons, gfMul_xor_left, List.cons.injEq] at ih ⊢
      exact ⟨by ac_rfl, ih a b⟩

theorem parStep_xor (prim : BitVec 9) (gen : List Byte) {p q : List Byte} (h : p.length = q.length) (m n : Byte) :
    parStep prim gen (xorBytes p q) (m ^^^ n) = xorBytes (parStep prim gen p m) (parStep prim gen q n) := by
  have hfb : m ^^^ n ^^^ (xorBytes p q).getD 31 0 = (m ^^^ p.getD 31 0) ^^^ (n ^^^ q.getD 31 0) := by
    rw [getD_xorBytes h]; ac_rfl
  have hshift : (0 : Byte) :: (xorBytes p q).take 31 = xorBytes (0 :: p.take 31) (0 :: q.take 31) := by
    simp [List.take_zipWith]
  rw [parStep, hfb, hshift]
  exact zipWith_feedback_xor prim _ _ gen _ _

theorem zipWith_zeros_xor (f : Byte → Byte) (n : Nat) (gen : List Byte) :
    List.zipWith (fun before g => before ^^^ f g) (List.replicate n 0) gen = (gen.map f).take n := by
  induction n generalizing gen with
  | zero => simp
  | succ n ih =>
    cases gen with
    | nil => simp
    | cons g gen => simpa [List.replicate_succ] using ih gen

/-- A symbol that meets a cleared register leaves its product with GEN. -/
theorem parStep_zeros (prim : BitVec 9) (gen : List Byte) (m : Byte) :
    parStep prim gen (List.replicate 32 0) m = (gen.map (gfMul prim m)).take 32 := by
  have hshift : (0 : Byte) :: (List.replicate 32 0).take 31 = List.replicate 32 0 := rfl
  have hfb : m ^^^ (List.replicate 32 (0 : Byte)).getD 31 0 = m := BitVec.xor_zero
  rw [parStep, hshift, hfb]
  exact zipWith_zeros_xor (gfMul prim m) 32 gen

/-! ## The remainder of a message -/

theorem foldl_parStep_xor (prim : BitVec 9) {a b : List Byte} (hab : a.length = b.length) {p q : List Byte}
    (hp : p.length = 32) (hq : q.length = 32) :
    (xorBytes a b).foldl (parStep prim (generator prim)) (xorBytes p q) =
      xorBytes (a.foldl (parStep prim (generator prim)) p) (b.foldl (parStep prim (generator prim)) q) := by
  induction a generalizing b p q with
  | nil => rw [List.length_eq_zero_iff.mp hab.symm]; rfl
  | cons m a ih =>
    cases b with
    | nil => cases hab
    | cons n b =>
      rw [xorBytes_cons, List.foldl_cons, parStep_xor prim _ (hp.trans hq.symm),
        ih (Nat.succ.inj hab) (parStep_length hp prim m) (parStep_length hq prim n), List.foldl_cons, List.foldl_cons]

theorem parAfter_xor (prim : BitVec 9) {a b : List Byte} (h : a.length = b.length) :
    parAfter prim (xorBytes a b) = xorBytes (parAfter prim a) (parAfter prim b) := by
  have hfold := foldl_parStep_xor prim h (p := List.replicate 32 0) (q := List.replicate 32 0)
    List.length_replicate List.length_replicate
  rwa [xorBytes_self, List.length_replicate] at hfold

/-- A zero message is any message ⊕ itself, and so is its remainder. -/
theorem parAfter_zeros (prim : BitVec 9) (n : Nat) : parAfter prim (List.replicate n 0) = List.replicate 32 0 := by
  have hself := parAfter_xor prim (a := List.replicate n 0) rfl
  rwa [xorBytes_self, xorBytes_self, List.length_replicate, parAfter_length] at hself

theorem parAfter_unit (prim : BitVec 9) (n : Nat) : parAfter prim (List.replicate n 0 ++ [1]) = (generator prim).take 32 := by
  have hzeros := parAfter_zeros prim n
  have hone : gfMul prim 1 = id := funext (gfMul_one_left prim)
  rw [parAfter] at hzeros ⊢
  rw [List.foldl_append, hzeros, List.foldl_cons, List.foldl_nil, parStep_zeros, hone, List.map_id]

/-! ## The block encoder -/

theorem paddedMessage_xor {a b : List Byte} (h : a.length = b.length) :
    paddedMessage (xorBytes a b) = xorBytes (paddedMessage a) (paddedMessage b) := by
  simp [paddedMessage, h, List.zipWith_append h]

theorem encodeBlock_xor (prim : BitVec 9) {a b : List Byte} (h : a.length = b.length) :
    encodeBlock prim (xorBytes a b) = xorBytes (encodeBlock prim a) (encodeBlock prim b) := by
  have hmsg : (paddedMessage a).length = (paddedMessage b).length := by simp [paddedMessage, h]
  have hpar : (parAfter prim (paddedMessage a)).length = (parAfter prim (paddedMessage b)).length := by
    rw [parAfter_length, parAfter_length]
  rw [encodeBlock, paddedMessage_xor h, parAfter_xor prim hmsg, List.reverse_zipWith hpar, ← List.zipWith_append hmsg,
    encodeBlock, encodeBlock]

theorem encodeBlock_zeros (prim : BitVec 9) {n : Nat} (h : n ≤ 223) :
    encodeBlock prim (List.replicate n 0) = List.replicate 255 0 := by
  have hmsg : paddedMessage (List.replicate n 0) = List.replicate 223 0 := by
    rw [paddedMessage, List.length_replicate, List.replicate_append_replicate, Nat.add_sub_cancel' h]
  rw [encodeBlock, hmsg, parAfter_zeros, List.reverse_replicate, List.replicate_append_replicate]

/-- A full chunk is its own message: its parity is what follows it. -/
theorem drop_encodeBlock_full (prim : BitVec 9) {chunk : List Byte} (h : chunk.length = 223) :
    (encodeBlock prim chunk).drop 223 = (parAfter prim chunk).reverse := by
  have hmsg : paddedMessage chunk = chunk := by simp [paddedMessage, h]
  rw [encodeBlock, hmsg, List.drop_left' h]

/-- Settles O34: the encoder's linearity, and its values at the zero messages and at the unit message. -/
theorem blockEncodingIsLinear : Obligations.BlockEncodingIsLinear := by
  intro prim
  refine ⟨fun a b hlen _ => encodeBlock_xor prim hlen, fun n hn => encodeBlock_zeros prim hn, ?_⟩
  rw [drop_encodeBlock_full prim (by rw [List.length_append, List.length_replicate]; rfl), parAfter_unit]

end Sys2Proof.Machine

/-! The escaper (41_escape.md). `Escape` treats an input byte in one of three ways (R142), so a law of the mapping is proved along
`escape_induction`, whose cases are those three; the two commands (R144, R145) then only count and store. -/

namespace Sys2Proof.Machine

/-! ## What the mapping does with one byte (R142) -/

/-- A byte the mapping copies through: neither the escape value nor the sync value. -/
abbrev plainByte (b : Byte) : Prop := b ≠ Config.escByte ∧ b ≠ Config.syncByte

theorem isReserved_eq_false_iff (b : Byte) : isReserved b = false ↔ plainByte b := by
  simp only [isReserved, Bool.or_eq_false_iff, decide_eq_false_iff_not]

theorem escapeByte_of_plain {b : Byte} (h : plainByte b) : escapeByte b = [b] := by
  rw [escapeByte, if_neg h.1, if_neg h.2]

theorem escape_escByte_cons (bs : List Byte) :
    escape (Config.escByte :: bs) = Config.escByte :: Config.escByte :: escape bs := rfl

theorem escape_syncByte_cons (bs : List Byte) :
    escape (Config.syncByte :: bs) = Config.escByte :: Config.syncSub :: escape bs := rfl

theorem escape_plain_cons {b : Byte} (h : plainByte b) (bs : List Byte) : escape (b :: bs) = b :: escape bs := by
  rw [escape, List.flatMap_cons, escapeByte_of_plain h, escape, List.singleton_append]

theorem escape_append (bs cs : List Byte) : escape (bs ++ cs) = escape bs ++ escape cs := List.flatMap_append

theorem countReserved_escByte_cons (bs : List Byte) :
    countReserved (Config.escByte :: bs) = countReserved bs + 1 := List.countP_cons_of_pos rfl

theorem countReserved_syncByte_cons (bs : List Byte) :
    countReserved (Config.syncByte :: bs) = countReserved bs + 1 := List.countP_cons_of_pos rfl

theorem countReserved_plain_cons {b : Byte} (h : plainByte b) (bs : List Byte) :
    countReserved (b :: bs) = countReserved bs :=
  List.countP_cons_of_neg (Bool.eq_false_iff.mp ((isReserved_eq_false_iff b).mpr h))

/-- Induction over the escaper's input along the rows of R142's table. -/
theorem escape_induction {P : List Byte → Prop} (nil : P []) (esc : ∀ bs, P bs → P (Config.escByte :: bs))
    (sync : ∀ bs, P bs → P (Config.syncByte :: bs)) (plain : ∀ b bs, plainByte b → P bs → P (b :: bs)) (bs : List Byte) :
    P bs := by
  induction bs with
  | nil => exact nil
  | cons b bs ih =>
    by_cases hesc : b = Config.escByte
    · exact hesc ▸ esc bs ih
    by_cases hsync : b = Config.syncByte
    · exact hsync ▸ sync bs ih
    exact plain b bs ⟨hesc, hsync⟩ ih

/-! ## What the readers of an escaped stream do (R143 (c), R147) -/

theorem escapesPairUp_cons_of_ne {a : Byte} (h : a ≠ Config.escByte) (out : List Byte) :
    escapesPairUp (a :: out) = escapesPairUp out := by
  cases out with
  | nil => exact decide_eq_true h
  | cons b out => exact if_neg h

theorem escapesPairUp_escape_pair {b : Byte} (h : b = Config.escByte ∨ b = Config.syncSub) (out : List Byte) :
    escapesPairUp (Config.escByte :: b :: out) = escapesPairUp out := by
  rcases h with rfl | rfl <;> rfl

theorem unescape_cons_of_ne {a : Byte} (h : a ≠ Config.escByte) (out : List Byte) :
    unescape (a :: out) = (unescape out).map (fun bs => a :: bs) := by
  cases out with
  | nil => exact if_neg h
  | cons b out => exact if_neg h

theorem unescape_escByte_pair (out : List Byte) :
    unescape (Config.escByte :: Config.escByte :: out) = (unescape out).map (fun bs => Config.escByte :: bs) := rfl

theorem unescape_syncSub_pair (out : List Byte) :
    unescape (Config.escByte :: Config.syncSub :: out) = (unescape out).map (fun bs => Config.syncByte :: bs) := rfl

/-! ## The laws of the mapping (R143) -/

/-- R143 (a): every reserved byte costs one byte more. -/
theorem escape_length (bs : List Byte) : (escape bs).length = bs.length + countReserved bs := by
  induction bs using escape_induction with
  | nil => rfl
  | esc bs ih =>
    rw [escape_escByte_cons, countReserved_escByte_cons]
    simp only [List.length_cons]; omega
  | sync bs ih =>
    rw [escape_syncByte_cons, countReserved_syncByte_cons]
    simp only [List.length_cons]; omega
  | plain b bs hb ih =>
    rw [escape_plain_cons hb, countReserved_plain_cons hb]
    simp only [List.length_cons]; omega

/-- R143 (b): so the modulator may treat a sync value in its input as a defect (R179). -/
theorem syncByte_not_mem_escape (bs : List Byte) : Config.syncByte ∉ escape bs := by
  induction bs using escape_induction with
  | nil => exact List.not_mem_nil
  | esc bs ih =>
    have hne : Config.syncByte ≠ Config.escByte := by decide
    exact List.not_mem_cons_of_ne_of_not_mem hne (List.not_mem_cons_of_ne_of_not_mem hne ih)
  | sync bs ih =>
    exact List.not_mem_cons_of_ne_of_not_mem (by decide) (List.not_mem_cons_of_ne_of_not_mem (by decide) ih)
  | plain b bs hb ih =>
    rw [escape_plain_cons hb]
    exact List.not_mem_cons_of_ne_of_not_mem hb.2.symm ih

/-- R143 (c): the scan meets an escape value only as the first of a pair that the mapping wrote. -/
theorem escapesPairUp_escape (bs : List Byte) : escapesPairUp (escape bs) = true := by
  induction bs using escape_induction with
  | nil => rfl
  | esc bs ih => rw [escape_escByte_cons, escapesPairUp_escape_pair (.inl rfl), ih]
  | sync bs ih => rw [escape_syncByte_cons, escapesPairUp_escape_pair (.inr rfl), ih]
  | plain b bs hb ih => rw [escape_plain_cons hb, escapesPairUp_cons_of_ne hb.1, ih]

theorem countReserved_eq_zero_iff (bs : List Byte) : countReserved bs = 0 ↔ ∀ b ∈ bs, plainByte b := by
  simp [countReserved, List.countP_eq_zero, isReserved_eq_false_iff]

theorem countReserved_le_length (bs : List Byte) : countReserved bs ≤ bs.length := List.countP_le_length

/-- R143 (d): without a reserved byte every byte is copied through. -/
theorem escape_of_plain {bs : List Byte} (h : ∀ b ∈ bs, plainByte b) : escape bs = bs := by
  induction bs with
  | nil => rfl
  | cons b bs ih =>
    obtain ⟨hb, hbs⟩ := List.forall_mem_cons.mp h
    rw [escape_plain_cons hb, ih hbs]

theorem escape_length_eq_iff (bs : List Byte) : (escape bs).length = bs.length ↔ ∀ b ∈ bs, plainByte b := by
  rw [escape_length, ← countReserved_eq_zero_iff]; omega

theorem escape_length_le (bs : List Byte) : (escape bs).length ≤ 2 * bs.length := by
  have := countReserved_le_length bs
  rw [escape_length]; omega

/-- R143 (e): the receiver's mapping gives the input back. -/
theorem unescape_escape (bs : List Byte) : unescape (escape bs) = some bs := by
  induction bs using escape_induction with
  | nil => rfl
  | esc bs ih => rw [escape_escByte_cons, unescape_escByte_pair, ih, Option.map_some]
  | sync bs ih => rw [escape_syncByte_cons, unescape_syncSub_pair, ih, Option.map_some]
  | plain b bs hb ih => rw [escape_plain_cons hb, unescape_cons_of_ne hb.1, ih, Option.map_some]

theorem escape_injective {bs cs : List Byte} (h : escape bs = escape cs) : bs = cs :=
  Option.some.inj (by rw [← unescape_escape bs, h, unescape_escape])

/-- Settles O38: the laws (a) to (f) in the rule's order. -/
theorem escapeMappingLaws : Obligations.EscapeMappingLaws := by
  refine ⟨escape_length, syncByte_not_mem_escape, escapesPairUp_escape, fun bs => ⟨?_, escape_length_le bs,
    escape_length_eq_iff bs, escape_of_plain⟩, unescape_escape, fun _ _ => escape_injective, escape_append⟩
  rw [escape_length]
  exact Nat.le_add_right _ _

/-! ## ESC_COUNT (R144) -/

theorem exec_escCount (s : State) : exec .escCount s = unlessFaulted s (fun s => .next (escCountBody s)) := rfl

theorem exec_escCount_of_clear {s : State} (h : s.status.fault = false) : exec .escCount s = .next (escCountBody s) := by
  rw [exec_escCount, unlessFaulted_of_clear h]

@[simp] theorem codBytes_length (s : State) : (codBytes s).length = s.codLen.toNat := bytesAt_length ..

/-- The count, as the number of positions of COD that hold a reserved byte. -/
theorem countReserved_codBytes (s : State) :
    countReserved (codBytes s) =
      ((List.range s.codLen.toNat).filter
        (fun i => decide (byteAt .cod i s = 0x54 ∨ byteAt .cod i s = 0xAB))).length := by
  rw [countReserved, codBytes, codLength, bytesAt_eq_map, List.countP_map, List.countP_eq_length_filter]
  congr 2
  funext i
  simp [isReserved]

/-- The count is at most COD_LEN, so it fits the register. -/
theorem escCountBody_res0 (s : State) : (escCountBody s).res0.toNat = countReserved (codBytes s) := by
  have hle : countReserved (codBytes s) ≤ s.codLen.toNat := codBytes_length s ▸ countReserved_le_length _
  have hlt : s.codLen.toNat < 2 ^ 32 := s.codLen.isLt
  exact toNat_word (by omega)

/-- Settles O36: the command ends one way only, with the count of `countReserved_codBytes`. -/
theorem escCountCountsReservedBytes : Obligations.EscCountCountsReservedBytes := by
  refine ⟨by decide, fun s => ⟨refusedWhileFaulted_of_exec (exec_escCount s), fun hclear => ?_⟩⟩
  exact ⟨_, exec_escCount_of_clear hclear, rfl, (escCountBody_res0 s).trans (countReserved_codBytes s)⟩

/-! ## ESC_ESCAPE (R145) -/

theorem exec_escEscape (s : State) : exec .escEscape s = unlessFaulted s (fun s => .next (escEscapeBody s)) := rfl

theorem exec_escEscape_of_clear {s : State} (h : s.status.fault = false) :
    exec .escEscape s = .next (escEscapeBody s) := by
  rw [exec_escEscape, unlessFaulted_of_clear h]

theorem escEscapeBody_of_transmitting {s : State} (h : s.status.transmitting = true) :
    escEscapeBody s = raiseFault .badState 0 s := if_pos h

theorem escEscapeBody_of_empty {s : State} (ht : s.status.transmitting = false) (h : s.codLen = 0) :
    escEscapeBody s = finishError .validation s := by
  simp [escEscapeBody, ht, codLength, h]

theorem escEscapeBody_of_data {s : State} (ht : s.status.transmitting = false) (h : s.codLen ≠ 0) :
    escEscapeBody s = finishWith .ok (escapeCoded s) := by
  have hlen : codLength s ≠ 0 := fun h0 => h (BitVec.eq_of_toNat_eq h0)
  simp [escEscapeBody, ht, hlen]

/-- In TXB the command leaves what a store of the escaped stream at offset 0 leaves. -/
theorem byteAt_escapeCoded_txb (a : Nat) (s : State) :
    byteAt .txb a (finishWith .ok (escapeCoded s)) = byteAt .txb a (storeBytes .txb 0 (escape (codBytes s)) s) := rfl

/-- The stream it wrote reads back whole. -/
theorem bytesAt_escapeCoded_txb (s : State) :
    bytesAt .txb 0 (escape (codBytes s)).length (finishWith .ok (escapeCoded s)) = escape (codBytes s) := by
  rw [bytesAt_congr (fun a _ _ => byteAt_escapeCoded_txb a s), bytesAt_storeBytes_zero .txb (Nat.zero_add _).le,
    List.drop_zero, List.take_length]

/-- Settles O37: the command's ends in the order of its checks; where it escapes, the stream is at most twice COD_LEN long, so
its length fits the registers, and TXB is that stream stored from offset 0. -/
theorem escEscapeWritesTheEscapedStream : Obligations.EscEscapeWritesTheEscapedStream := by
  refine ⟨by decide, fun s => ⟨refusedWhileFaulted_of_exec (exec_escEscape s), fun hclear => ?_⟩⟩
  rw [exec_escEscape_of_clear hclear]
  refine ⟨fun ht => ?session, fun ht hempty => ?empty, fun ht hdata hlt => ?escaped⟩
  case session => rw [escEscapeBody_of_transmitting ht, raiseFault_of_clear hclear]
  case empty => rw [escEscapeBody_of_empty ht hempty, finishError_eq]
  case escaped =>
    have hbound : (escape (codBytes s)).length ≤ 2 * s.codLen.toNat := codBytes_length s ▸ escape_length_le _
    have hlen : (finishWith .ok (escapeCoded s)).txbLen.toNat = (escape (codBytes s)).length := toNat_word (by omega)
    refine ⟨_, congrArg _ (escEscapeBody_of_data ht hdata), rfl, hlen, rfl, ?_, fun a ha => ?_⟩
    · rw [hlen, bytesAt_escapeCoded_txb]; rfl
    · rw [byteAt_escapeCoded_txb]
      exact byteAt_storeBytes_above .txb 0 a _ s (by omega)

end Sys2Proof.Machine

/-! The modulator (42_modulator.md): what `Synth` and a frame are made of (R159 to R166), and the two of its commands that do not
run the sequencer: TX_START (R176) and TONE (R184). -/

namespace Sys2Proof.Machine

/-! ## One tone (R159, R160) -/

theorem synth_zero_frequency (p : Params) (n : Nat) (phase : Word) : synth p 0 n phase = (List.replicate n 0, 0) := if_pos rfl

theorem synth_of_ne_zero (p : Params) {w : Word} (h : w ≠ 0) (n : Nat) (phase : Word) :
    synth p w n phase = synthRun p w n phase :=
  if_neg h

/-- In a ROM of 2^k entries the index is the phase's top k bits. -/
theorem sineAt_of_sinLen {p : Params} {k : Nat} (h : p.sinLen = 2 ^ k) (phase : Word) :
    sineAt p phase = p.sine.getD (phase.toNat / 2 ^ (32 - k)) 0 := by
  rw [sineAt, h, Nat.log2_two_pow, Nat.shiftRight_eq_div_pow]

section Tones

variable (p : Params) (w : Word)

/-- The phase `i` samples on: one advance and `i` more. -/
theorem phase_add_succ_mul (phase : Word) (i : Nat) :
    phase + w + BitVec.ofNat 32 i * w = phase + BitVec.ofNat 32 (i + 1) * w := by
  rw [BitVec.ofNat_add, BitVec.add_mul, BitVec.one_mul, BitVec.add_assoc, BitVec.add_comm w]

theorem phase_add_mul_toNat (phase : Word) (i : Nat) :
    (phase + BitVec.ofNat 32 i * w).toNat = (phase.toNat + i * w.toNat) % 2 ^ 32 := by
  simp

theorem synthRun_length (n : Nat) (phase : Word) : (synthRun p w n phase).1.length = n := by
  induction n generalizing phase with
  | zero => rfl
  | succ n ih => simp only [synthRun, List.length_cons, ih]

/-- Sample `i` is read at the phase advanced `i` times. -/
theorem synthRun_getElem? {n i : Nat} (h : i < n) (phase : Word) :
    (synthRun p w n phase).1[i]? = some (sineAt p (phase + BitVec.ofNat 32 i * w)) := by
  induction n generalizing i phase with
  | zero => exact absurd h (Nat.not_lt_zero i)
  | succ n ih =>
    cases i with
    | zero => simp [synthRun]
    | succ i =>
      simp only [synthRun, List.getElem?_cons_succ]
      rw [ih (Nat.lt_of_succ_lt_succ h), phase_add_succ_mul]

theorem synthRun_phase (n : Nat) (phase : Word) : (synthRun p w n phase).2 = phase + BitVec.ofNat 32 n * w := by
  induction n generalizing phase with
  | zero => simp [synthRun]
  | succ n ih => rw [synthRun, ih, phase_add_succ_mul]

theorem synth_length (n : Nat) (phase : Word) : (synth p w n phase).1.length = n := by
  by_cases hw : w = 0
  · rw [hw, synth_zero_frequency, List.length_replicate]
  · rw [synth_of_ne_zero p hw, synthRun_length]

theorem synthRun_add (m n : Nat) (phase : Word) :
    synthRun p w (m + n) phase =
      ((synthRun p w m phase).1 ++ (synthRun p w n (synthRun p w m phase).2).1,
        (synthRun p w n (synthRun p w m phase).2).2) := by
  induction m generalizing phase with
  | zero => rw [Nat.zero_add]; rfl
  | succ m ih =>
    rw [Nat.succ_add, synthRun, ih (phase + w)]
    rfl

/-- Consecutive tones of one tuning word splice. -/
theorem synth_add (m n : Nat) (phase : Word) :
    synth p w (m + n) phase =
      ((synth p w m phase).1 ++ (synth p w n (synth p w m phase).2).1, (synth p w n (synth p w m phase).2).2) := by
  by_cases hw : w = 0
  · simp only [hw, synth_zero_frequency, List.replicate_append_replicate]
  · simp only [synth_of_ne_zero p hw, synthRun_add]

end Tones

/-- Settles O39: for w ≠ 0 the samples are those of the loop, whose phase before sample `i` is `phase + i·w` in 32 bits; for w = 0
it is the definition's other branch. -/
theorem synthReadsTheRomAtTheRunningPhase : Obligations.SynthReadsTheRomAtTheRunningPhase := by
  refine fun p n phase => ⟨fun w k hw hlen _ _ => ?_, synth_zero_frequency p n phase⟩
  rw [synth_of_ne_zero p hw]
  refine ⟨synthRun_length p w n phase, fun i hi => ?_, ?_⟩
  · rw [synthRun_getElem? p w hi, sineAt_of_sinLen hlen, phase_add_mul_toNat]
  · rw [synthRun_phase, phase_add_mul_toNat]

/-! ## Frames (R164 to R166) -/

section Frames

variable (p : Params)

/-- Bits are units: one tone of NS_BIT samples each. -/
theorem synthBits_eq_makeUnits (bits : List Bool) (phase : Word) :
    synthBits p bits phase =
      ((makeUnits (bits.map (fun bit => synth p (toneOfBit p bit) p.nsBit)) phase).1.flatten,
        (makeUnits (bits.map (fun bit => synth p (toneOfBit p bit) p.nsBit)) phase).2) := by
  induction bits generalizing phase with
  | nil => rfl
  | cons bit bits ih => rw [synthBits, ih]; rfl

theorem synthBits_append (bits later : List Bool) (phase : Word) :
    synthBits p (bits ++ later) phase =
      ((synthBits p bits phase).1 ++ (synthBits p later (synthBits p bits phase).2).1,
        (synthBits p later (synthBits p bits phase).2).2) := by
  induction bits generalizing phase with
  | nil => rfl
  | cons bit bits ih => simp only [List.cons_append, synthBits, ih, List.append_assoc]

/-- Equal bits are one tone (there must be a bit: the zero-frequency tone clears the phase even where it has no sample). -/
theorem synthBits_replicate (bit : Bool) (k : Nat) (phase : Word) :
    synthBits p (List.replicate (k + 1) bit) phase = synth p (toneOfBit p bit) ((k + 1) * p.nsBit) phase := by
  induction k generalizing phase with
  | zero => simp [synthBits]
  | succ k ih =>
    rw [List.replicate_succ, synthBits, ih, show (k + 1 + 1) * p.nsBit = p.nsBit + (k + 1) * p.nsBit by ring, synth_add]

theorem synthBits_length (bits : List Bool) (phase : Word) :
    (synthBits p bits phase).1.length = bits.length * p.nsBit := by
  induction bits generalizing phase with
  | nil => simp [synthBits]
  | cons bit bits ih => simp only [synthBits, List.length_append, synth_length, ih, List.length_cons]; ring

theorem bitsOf_length (b : Byte) (msb : Bool) : (bitsOf b msb).length = 8 := by
  cases msb <;> rfl

theorem frameBits_length (cfg : Word) (b : Byte) (msb : Bool) : (frameBits cfg b msb).length = 16 := by
  simp [frameBits, bitsOf_length, Config.startBits, Config.stopBits]

/-- The sending order by the bits' numbers (R164). -/
theorem bitsOf_eq_map (b : Byte) (msb : Bool) :
    bitsOf b msb =
      (if msb then [7, 6, 5, 4, 3, 2, 1, 0] else [0, 1, 2, 3, 4, 5, 6, 7]).map (fun i => b.getLsbD i) := by
  cases msb <;> rfl

/-- A frame in three parts: the start tone, the data bits, the stop tone. -/
theorem frameSamples_eq_parts (cfg : Word) (b : Byte) (msb : Bool) (phase : Word) :
    let start := synth p (toneOfBit p (invertSs cfg)) (4 * p.nsBit) phase
    let data := synthBits p (bitsOf b msb) start.2
    let stop := synth p (toneOfBit p (!invertSs cfg)) (4 * p.nsBit) data.2
    frameSamples p cfg b msb phase = (start.1 ++ data.1 ++ stop.1, stop.2) := by
  simp only [frameSamples, frameBits, Config.startBits, Config.stopBits, synthBits_append, synthBits_replicate]

end Frames

/-- Settles O41: the parts of the frame with its equal bits spliced, the frame as sixteen units, and its length, a frame being
sixteen bits. -/
theorem frameLayout : Obligations.FrameLayout := by
  intro p cfg b msb phase tone inverted order start data stop sixteen
  refine ⟨?parts, ?units, ?length⟩
  case parts =>
    rw [frameSamples_eq_parts, bitsOf_eq_map, synthBits_eq_makeUnits, List.map_map]
    rfl
  case units =>
    rw [frameSamples, synthBits_eq_makeUnits, frameBits, bitsOf_eq_map]
    rfl
  case length => rw [frameSamples, synthBits_length, frameBits_length]

/-! ## TX_START (R176) -/

theorem exec_txStart (s : State) : exec .txStart s = unlessFaulted s (fun s => .next (txStartBody s)) := rfl

theorem exec_txStart_of_clear {s : State} (h : s.status.fault = false) : exec .txStart s = .next (txStartBody s) := by
  rw [exec_txStart, unlessFaulted_of_clear h]

theorem txStartBody_of_transmitting {s : State} (h : s.status.transmitting = true) :
    txStartBody s = raiseFault .badState 0 s := if_pos h

theorem txStartBody_of_empty {s : State} (ht : s.status.transmitting = false) (h : s.txbLen = 0) :
    txStartBody s = finishError .validation s := by
  simp [txStartBody, ht, h]

theorem txStartBody_of_data {s : State} (ht : s.status.transmitting = false) (h : s.txbLen ≠ 0) :
    txStartBody s = finishWith .ok (openSession s) := by
  simp only [txStartBody, ht, if_neg h, Bool.false_eq_true, if_false]

/-- Settles O43: the command's ends in the order of its checks. -/
theorem txStartOpensTheSession : Obligations.TxStartOpensTheSession := by
  refine ⟨by decide, fun s => ⟨refusedWhileFaulted_of_exec (exec_txStart s), fun hclear => ?_⟩⟩
  rw [exec_txStart_of_clear hclear]
  refine ⟨fun ht => ?session, fun ht hempty => ?empty, fun ht hdata => ?opened⟩
  case session => rw [txStartBody_of_transmitting ht, raiseFault_of_clear hclear]
  case empty => rw [txStartBody_of_empty ht hempty, finishError_eq]
  case opened => rw [txStartBody_of_data ht hdata]; rfl

/-! ## Polls and units with a known outcome (R163, R172) -/

theorem pollOrBusy_of_ready {s : State} {later : List Bool} (h : s.sinkAnswers = true :: later) :
    pollOrBusy s = .goesOn { s with sinkAnswers := later, polls := s.polls + 1 } := by
  simp [pollOrBusy, sinkPoll_of_answer h]

theorem pollOrBusy_of_busy {s : State} {later : List Bool} (h : s.sinkAnswers = false :: later) :
    pollOrBusy s = .ended (finishWith .busy { s with sinkAnswers := later, polls := s.polls + 1 }) := by
  simp [pollOrBusy, sinkPoll_of_answer h]

theorem emitUnit_of_room {len : Nat} {s : State} (h : s.orbSize.toNat + len ≤ s.params.orbMax)
    (gen : Word → List Byte × Word) :
    emitUnit len gen s = .goesOn (autoHandoff (orbWrite (gen s.phase).1 { s with phase := (gen s.phase).2 })) := by
  obtain ⟨-, he⟩ | ⟨hover, -⟩ := emitUnit_cases len gen s
  · exact he
  · exact absurd h (Nat.not_le.mpr hover)

theorem emitUnit_of_overflow {len : Nat} {s : State} (h : s.params.orbMax < s.orbSize.toNat + len)
    (gen : Word → List Byte × Word) :
    emitUnit len gen s = .ended (raiseFault .orbOverflow (BitVec.ofNat 32 (s.orbSize.toNat + len)) s) := by
  obtain ⟨hroom, -⟩ | ⟨-, he⟩ := emitUnit_cases len gen s
  · exact absurd hroom (Nat.not_le.mpr h)
  · exact he

/-! ## What is pending after a unit was written (R201, R203) -/

theorem bytesAt_append (b : ByteSpace) (base m n : Nat) (s : State) :
    bytesAt b base (m + n) s = bytesAt b base m s ++ bytesAt b (base + m) n s := by
  simp only [bytesAt_eq_map, List.range_add, List.map_append, List.map_map, Function.comp_def, Nat.add_assoc]

/-- A run just stored reads back. -/
theorem bytesAt_storeBytes_self (b : ByteSpace) (base : Nat) (bs : List Byte) (s : State) :
    bytesAt b base bs.length (storeBytes b base bs s) = bs := by
  refine List.ext_getElem (bytesAt_length ..) (fun i hi hbs => ?_)
  rw [bytesAt_getElem b base bs.length i _ hbs, byteAt_storeBytes_inside b base i bs s hbs]

theorem byteAt_orbWrite (samples : List Byte) (a : Nat) (s : State) :
    byteAt .orb a (orbWrite samples s) = byteAt .orb a (storeBytes .orb s.orbSize.toNat samples s) := rfl

/-- `OrbWrite` appends: the pending samples are those from before and then the new ones (R201). -/
theorem pendingSamples_orbWrite {s : State} (hm : s.orb.wf) {samples : List Byte}
    (hfits : s.orbSize.toNat + samples.length ≤ 0xFFFFFFFF) :
    pendingSamples (orbWrite samples s) = pendingSamples s ++ samples := by
  have hsize : (orbWrite samples s).orbSize.toNat = s.orbSize.toNat + samples.length := toNat_word hfits
  have hnew : bytesAt .orb (0 + s.orbSize.toNat) samples.length (orbWrite samples s) = samples := by
    rw [Nat.zero_add, bytesAt_congr (fun a _ _ => byteAt_orbWrite samples a s), bytesAt_storeBytes_self]
  have hold : bytesAt .orb 0 s.orbSize.toNat (orbWrite samples s) = pendingSamples s :=
    bytesAt_congr (fun a _ ha => (byteAt_orbWrite samples a s).trans
      (byteAt_storeBytes_outside (b := .orb) hm _ a samples (.inl (by omega))))
  rw [pendingSamples, hsize, bytesAt_append, hold, hnew]

theorem autoHandoff_of_lt {s : State} (h : s.orbSize.toNat < s.params.orbMin) : autoHandoff s = s :=
  if_neg (Nat.not_le.mpr h)

theorem autoHandoff_of_ge {s : State} (h : s.params.orbMin ≤ s.orbSize.toNat) : autoHandoff s = handOffPending s :=
  if_pos h

/-- `OrbHandoff` writes ORB_SIZE and the sink's log only. -/
theorem autoHandoff_frame (s : State) :
    autoHandoff s = { s with orbSize := (autoHandoff s).orbSize, sinkLog := (autoHandoff s).sinkLog } := by
  rcases Nat.lt_or_ge s.orbSize.toNat s.params.orbMin with h | h
  · rw [autoHandoff_of_lt h]
  · rw [autoHandoff_of_ge h]; rfl

theorem byteAt_autoHandoff_orb (a : Nat) (s : State) : byteAt .orb a (autoHandoff s) = byteAt .orb a s :=
  byteAt_congr (b := .orb) (autoHandoff_orb s) (autoHandoff_powerOns s) (fun _ => autoHandoff_srcStale s) a

/-! ## TONE (R184) -/

/-- The word of TONE: the count above the opcode (R93, R94). -/
theorem decode_toneWord {n : Nat} (h : n < 2 ^ 24) : decode (BitVec.ofNat 32 (256 * n + 0x13)) = .ok (.tone n) := by
  have hop : opcodeOf (BitVec.ofNat 32 (256 * n + 0x13)) = 0x13 := by
    apply BitVec.eq_of_toNat_eq
    simp only [opcodeOf, BitVec.extractLsb'_toNat, BitVec.toNat_ofNat, Nat.shiftRight_zero]
    change _ = 19
    omega
  have himm : (immOf (BitVec.ofNat 32 (256 * n + 0x13))).toNat = n := by
    simp only [immOf, BitVec.extractLsb'_toNat, BitVec.toNat_ofNat, Nat.shiftRight_eq_div_pow]
    omega
  rw [decode, if_pos hop, himm]

theorem exec_tone (n : Nat) (s : State) : exec (.tone n) s = unlessFaulted s (fun s => .next (toneBody n s)) := rfl

theorem exec_tone_of_clear {s : State} (h : s.status.fault = false) (n : Nat) :
    exec (.tone n) s = .next (toneBody n s) := by
  rw [exec_tone, unlessFaulted_of_clear h]

theorem toneBody_of_transmitting {s : State} (h : s.status.transmitting = true) (n : Nat) :
    toneBody n s = raiseFault .badState 0 s := if_pos h

section ToneOutsideASession

variable {s : State} {later : List Bool} {n : Nat}

theorem toneBody_of_busy (ht : s.status.transmitting = false) (hbusy : s.sinkAnswers = false :: later) :
    toneBody n s = finishWith .busy { s with sinkAnswers := later, polls := s.polls + 1 } := by
  simp [toneBody, ht, pollOrBusy_of_busy hbusy]

theorem toneBody_of_overflow (ht : s.status.transmitting = false) (hready : s.sinkAnswers = true :: later)
    (hover : s.params.orbMax < s.orbSize.toNat + n) :
    toneBody n s =
      raiseFault .orbOverflow (BitVec.ofNat 32 (s.orbSize.toNat + n))
        { s with sinkAnswers := later, polls := s.polls + 1 } := by
  simp only [toneBody, ht, pollOrBusy_of_ready hready, Bool.false_eq_true, if_false]
  rw [emitUnit_of_overflow (by exact hover)]

/-- The state in which TONE has written its samples and not yet looked at the threshold. -/
def toneWritten (n : Nat) (later : List Bool) (s : State) : State :=
  orbWrite (synth s.params s.arg0 n s.phase).1
    { s with sinkAnswers := later, polls := s.polls + 1, phase := (synth s.params s.arg0 n s.phase).2 }

theorem toneBody_of_room (ht : s.status.transmitting = false) (hready : s.sinkAnswers = true :: later)
    (hroom : s.orbSize.toNat + n ≤ s.params.orbMax) :
    toneBody n s = finishWith .ok (autoHandoff (toneWritten n later s)) := by
  simp only [toneBody, ht, pollOrBusy_of_ready hready, Bool.false_eq_true, if_false]
  rw [emitUnit_of_room (by exact hroom)]
  rfl

theorem toneWritten_orbSize (hfits : s.orbSize.toNat + n ≤ 0xFFFFFFFF) :
    (toneWritten n later s).orbSize.toNat = s.orbSize.toNat + n := by
  simp only [toneWritten, orbWrite_orbSize, synth_length]
  exact toNat_word hfits

theorem pendingSamples_toneWritten (hm : s.orb.wf) (hfits : s.orbSize.toNat + n ≤ 0xFFFFFFFF) :
    pendingSamples (toneWritten n later s) = pendingSamples s ++ (synth s.params s.arg0 n s.phase).1 :=
  pendingSamples_orbWrite hm (by rwa [synth_length])

theorem byteAt_toneWritten_outside (hm : s.orb.wf) {a : Nat} (h : a < s.orbSize.toNat ∨ s.orbSize.toNat + n ≤ a) :
    byteAt .orb a (toneWritten n later s) = byteAt .orb a s := by
  rw [toneWritten, byteAt_orbWrite]
  exact byteAt_storeBytes_outside (b := .orb) hm _ a _ (by rwa [synth_length])

end ToneOutsideASession

/-- The fields TONE leaves when it has emitted its unit. -/
theorem emittedTone_frame (n : Nat) (later : List Bool) (s : State) :
    let t := finishWith .ok (autoHandoff (toneWritten n later s))
    t = { s with
      sinkAnswers := later, polls := s.polls + 1, status := statusAfter .ok .none s.status, errinfo := 0
      phase := (synth s.params s.arg0 n s.phase).2, orb := t.orb, orbSize := t.orbSize, sinkLog := t.sinkLog } := by
  intro t
  have horb : t.orb = (toneWritten n later s).orb := autoHandoff_orb (toneWritten n later s)
  rw [horb]
  exact congrArg (finishWith .ok) (autoHandoff_frame (toneWritten n later s))

/-- Settles O52: the command's ends in the order of its checks; where the samples fit (ORB_MAX is below 2^24), they are appended
to the pending ones, and the threshold decides whether these stay or go to the sink. -/
theorem toneEmitsOneUnit : Obligations.ToneEmitsOneUnit := by
  refine fun s n later hinv hn => ⟨decode_toneWord hn, refusedWhileFaulted_of_exec (exec_tone n s), fun hclear => ?_⟩
  rw [exec_tone_of_clear hclear]
  refine ⟨fun ht => ?session, fun ht hbusy => ?busy, fun ht hready hover => ?overflow, fun ht hready hroom => ?emitted⟩
  case session => rw [toneBody_of_transmitting ht, raiseFault_of_clear hclear]
  case busy => rw [toneBody_of_busy ht hbusy]; rfl
  case overflow => rw [toneBody_of_overflow ht hready hover, raiseFault_of_clear (by exact hclear)]
  case emitted =>
    have hfits : s.orbSize.toNat + n ≤ 0xFFFFFFFF := by have := hinv.params.orbMax_lt; omega
    have hsize : (toneWritten n later s).orbSize.toNat = s.orbSize.toNat + n := toneWritten_orbSize hfits
    have hpending := pendingSamples_toneWritten (later := later) hinv.orb_wf hfits
    refine ⟨_, congrArg _ (toneBody_of_room ht hready hroom), emittedTone_frame n later s, fun a ha => ?_,
      fun hbelow => ?_, fun hreached => ?_⟩
    · exact (byteAt_autoHandoff_orb a (toneWritten n later s)).trans (byteAt_toneWritten_outside hinv.orb_wf ha)
    · have hkept : autoHandoff (toneWritten n later s) = toneWritten n later s :=
        autoHandoff_of_lt (hsize.trans_lt hbelow)
      rw [hkept]
      exact ⟨rfl, hpending⟩
    · have hhanded : autoHandoff (toneWritten n later s) = handOffPending (toneWritten n later s) :=
        autoHandoff_of_ge (hreached.trans_eq hsize.symm)
      rw [hhanded, ← hpending]
      exact ⟨rfl, rfl⟩

end Sys2Proof.Machine

/-! The command ORB_FLUSH (43_ring_buffer.md). `OrbFlush` (R202) is a write of silence up to ORB_MIN and then a hand-off of all that is
pending: what the sink gets and which bytes of ORB change are what the write leaves, and the hand-off keeps ORB's bytes. -/

namespace Sys2Proof.Machine

/-! ## The padding below the threshold (R202) -/

section BelowTheThreshold

variable {s : State} (h : s.orbSize.toNat < s.params.orbMin)
include h

theorem padToThreshold_of_lt :
    padToThreshold s = orbWrite (List.replicate (s.params.orbMin - s.orbSize.toNat) 0) s := if_pos h

/-- Below the threshold the padding ends at ORB_MIN. -/
theorem orbSize_add_padding_length :
    s.orbSize.toNat + (List.replicate (s.params.orbMin - s.orbSize.toNat) (0 : Byte)).length = s.params.orbMin := by
  rw [List.length_replicate, Nat.add_sub_cancel' h.le]

theorem pendingSamples_padToThreshold (hm : s.orb.wf) (hfits : s.params.orbMin ≤ 0xFFFFFFFF) :
    pendingSamples (padToThreshold s) =
      pendingSamples s ++ List.replicate (s.params.orbMin - s.orbSize.toNat) 0 := by
  rw [padToThreshold_of_lt h]
  exact pendingSamples_orbWrite hm ((orbSize_add_padding_length h).trans_le hfits)

theorem byteAt_padToThreshold_outside (hm : s.orb.wf) {a : Nat} (ha : a < s.orbSize.toNat ∨ s.params.orbMin ≤ a) :
    byteAt .orb a (padToThreshold s) = byteAt .orb a s := by
  rw [padToThreshold_of_lt h, byteAt_orbWrite]
  exact byteAt_storeBytes_outside (b := .orb) hm _ a _ (by rwa [orbSize_add_padding_length h])

/-- `OrbFlush` (R202): the padded block goes to the sink, and besides ORB, ORB_SIZE and the sink's log nothing changes. -/
theorem orbFlush_of_lt (hm : s.orb.wf) (hfits : s.params.orbMin ≤ 0xFFFFFFFF) :
    orbFlush s = { s with
      orb := (orbFlush s).orb, orbSize := 0
      sinkLog := s.sinkLog ++ [pendingSamples s ++ List.replicate (s.params.orbMin - s.orbSize.toNat) 0] } := by
  rw [← pendingSamples_padToThreshold h hm hfits, orbFlush, padToThreshold_of_lt h]
  rfl

/-- The hand-off keeps ORB's bytes, so a flush changes the padding only. -/
theorem byteAt_orbFlush_outside (hm : s.orb.wf) {a : Nat} (ha : a < s.orbSize.toNat ∨ s.params.orbMin ≤ a) :
    byteAt .orb a (orbFlush s) = byteAt .orb a s :=
  (byteAt_congr (b := .orb) (t := orbFlush s) (s := padToThreshold s) rfl rfl (fun _ => rfl) a).trans
    (byteAt_padToThreshold_outside h hm ha)

end BelowTheThreshold

/-! ## ORB_FLUSH (R207) -/

/-- The state a poll leaves when the environment's next answer was fixed and `later` are those after it (R204). -/
def afterPoll (later : List Bool) (s : State) : State := { s with sinkAnswers := later, polls := s.polls + 1 }

theorem exec_orbFlush (s : State) : exec .orbFlush s = unlessFaulted s (fun s => .next (orbFlushBody s)) := rfl

theorem exec_orbFlush_of_clear {s : State} (h : s.status.fault = false) :
    exec .orbFlush s = .next (orbFlushBody s) := by
  rw [exec_orbFlush, unlessFaulted_of_clear h]

theorem orbFlushBody_of_empty {s : State} (h : s.orbSize = 0) : orbFlushBody s = finishWith .ok s := if_pos h

theorem orbFlushBody_of_busy {s : State} {later : List Bool} (h : s.orbSize ≠ 0)
    (hbusy : s.sinkAnswers = false :: later) :
    orbFlushBody s = finishWith .busy (afterPoll later s) := by
  simp only [orbFlushBody, if_neg h, pollOrBusy_of_busy hbusy, afterPoll]

theorem orbFlushBody_of_ready {s : State} {later : List Bool} (h : s.orbSize ≠ 0)
    (hready : s.sinkAnswers = true :: later) :
    orbFlushBody s = finishWith .ok (orbFlush (afterPoll later s)) := by
  simp only [orbFlushBody, if_neg h, pollOrBusy_of_ready hready, afterPoll]

/-- Settles O53: the command's ends in the order of its checks; after a ready poll the flush finds ORB_SIZE below ORB_MIN, which is
below 2^24, so it pads. -/
theorem orbFlushPadsAndHandsOff : Obligations.OrbFlushPadsAndHandsOff := by
  refine ⟨by decide, fun s later hinv => ⟨refusedWhileFaulted_of_exec (exec_orbFlush s), fun hclear => ?_⟩⟩
  rw [exec_orbFlush_of_clear hclear]
  refine ⟨fun hempty => ?empty, fun hpending hbusy => ?busy, fun hpending hready => ?flushed⟩
  case empty => rw [orbFlushBody_of_empty hempty]; rfl
  case busy => rw [orbFlushBody_of_busy hpending hbusy]; rfl
  case flushed =>
    have hfits : s.params.orbMin ≤ 0xFFFFFFFF := by
      have := hinv.params.orbMax_ge
      have := hinv.params.orbMax_lt
      omega
    have hbelow : (afterPoll later s).orbSize.toNat < (afterPoll later s).params.orbMin := hinv.orbSize_lt
    refine ⟨_, congrArg _ (orbFlushBody_of_ready hpending hready), ?_, fun a ha => ?_⟩
    · exact congrArg (finishWith .ok) (orbFlush_of_lt hbelow hinv.orb_wf hfits)
    · exact byteAt_orbFlush_outside hbelow hinv.orb_wf ha

end Sys2Proof.Machine

/-! File 44_system.md: which commands reach the sink (R225), and what RESET does (R223). For R225 the environment's side of the state
is followed through a step: a request that is no CMD write, an illegal word and every command but the four leave it alone. -/

namespace Sys2Proof.Machine

/-! ## The sink's side of the machine -/

/-- What stands on the sink's side of a step: the polls made, the answers still fixed, and what was handed off (R49, R204, R205). -/
def sinkSide (s : State) : Nat × List Bool × List (List Byte) := (s.polls, s.sinkAnswers, s.sinkLog)

/-- The commands that may poll the sink or hand off to it (R225). -/
def reachesSink (i : Instr) : Prop := i = .txPump ∨ i = .txCancel ∨ (∃ n, i = .tone n) ∨ i = .orbFlush

theorem sinkSide_ne_iff (s t : State) :
    sinkSide t ≠ sinkSide s ↔ t.polls ≠ s.polls ∨ t.sinkAnswers ≠ s.sinkAnswers ∨ t.sinkLog ≠ s.sinkLog := by
  simp only [sinkSide, ne_eq, Prod.mk.injEq, not_and_or]

/-! ## The commands that leave the sink alone -/

theorem fecSizeBody_sinkSide (s : State) : sinkSide (fecSizeBody s) = sinkSide s := by
  unfold fecSizeBody; split <;> rfl

theorem fecEncodeBody_sinkSide (s : State) : sinkSide (fecEncodeBody s) = sinkSide s := by
  unfold fecEncodeBody; split_ifs <;> rfl

theorem escCountBody_sinkSide (s : State) : sinkSide (escCountBody s) = sinkSide s := rfl

theorem escEscapeBody_sinkSide (s : State) : sinkSide (escEscapeBody s) = sinkSide s := by
  unfold escEscapeBody; split_ifs <;> rfl

theorem txStartBody_sinkSide (s : State) : sinkSide (txStartBody s) = sinkSide s := by
  unfold txStartBody; split_ifs <;> rfl

/-- The common check's refusal (R220) tells the sink nothing, so a command does not where its body does not. -/
theorem unlessFaulted_next_sinkSide {body : State → State} {s t : State} (hbody : sinkSide (body s) = sinkSide s)
    (h : unlessFaulted s (fun s => .next (body s)) = .next t) : sinkSide t = sinkSide s := by
  obtain ⟨-, hs⟩ | ⟨-, hs⟩ := unlessFaulted_cases s (fun s => .next (body s)) <;> cases hs.symm.trans h
  · rfl
  · exact hbody

theorem exec_sinkSide {i : Instr} {s t : State} (hi : ¬ reachesSink i) (h : exec i s = .next t) : sinkSide t = sinkSide s := by
  cases i with
  | fecSize => exact unlessFaulted_next_sinkSide (fecSizeBody_sinkSide s) h
  | fecEncode => exact unlessFaulted_next_sinkSide (fecEncodeBody_sinkSide s) h
  | escCount => exact unlessFaulted_next_sinkSide (escCountBody_sinkSide s) h
  | escEscape => exact unlessFaulted_next_sinkSide (escEscapeBody_sinkSide s) h
  | txStart => exact unlessFaulted_next_sinkSide (txStartBody_sinkSide s) h
  | reset =>
    cases h
    rfl
  | txPump => exact absurd (.inl rfl) hi
  | txCancel => exact absurd (.inr (.inl rfl)) hi
  | tone n => exact absurd (.inr (.inr (.inl ⟨n, rfl⟩))) hi
  | orbFlush => exact absurd (.inr (.inr (.inr rfl))) hi

theorem execIllegal_sinkSide {w : Word} {s t : State} (h : execIllegal w s = .next t) : sinkSide t = sinkSide s :=
  unlessFaulted_next_sinkSide (body := raiseFault .illegalCmd w) rfl h

theorem acceptCmd_sinkSide (w : Word) (s : State) : sinkSide (acceptCmd w s) = sinkSide s := rfl

/-- A CMD write that reaches the sink wrote the word of one of the four commands. -/
theorem executeCmdWrite_reachesSink {w : Word} {s t : State} (h : executeCmdWrite w s = .next t)
    (hne : sinkSide t ≠ sinkSide s) : ∃ i, decode w = .ok i ∧ reachesSink i := by
  cases hw : decode w with
  | error e =>
    rw [executeCmdWrite_of_error hw] at h
    exact absurd ((execIllegal_sinkSide h).trans (acceptCmd_sinkSide w s)) hne
  | ok i =>
    have hexec : exec i (acceptCmd w s) = .next t := by simpa [executeCmdWrite, hw] using h
    exact ⟨i, rfl, Classical.byContradiction fun hi =>
      hne ((exec_sinkSide hi hexec).trans (acceptCmd_sinkSide w s))⟩

/-! ## The requests that leave the sink alone -/

theorem portWrite_sinkSide {q : Request} {s t : State} (h : portWrite q s = some t) : sinkSide t = sinkSide s := by
  obtain hreg | rfl := portWrite_cases h
  · obtain rfl | rfl | rfl := writeReg_cases hreg <;> rfl
  · rfl

theorem respond_sinkSide (r : Response) (s : State) : sinkSide (respond r s) = sinkSide s := rfl

theorem serveWrite_sinkSide (q : Request) (s : State) : sinkSide (serveWrite q s) = sinkSide s := by
  unfold serveWrite
  split
  next t h => exact (respond_sinkSide (.ok 0) t).trans (portWrite_sinkSide h)
  next => rfl

theorem serveRequest_sinkSide {r : BitVec 64} (hr : ∀ q, unpackRequest r = some q → isCmdWrite q = false) {s t : State}
    (h : serveRequest r s = .next t) : sinkSide t = sinkSide s := by
  obtain hs | ⟨q, hs⟩ | ⟨q, hs⟩ := serveRequest_of_no_cmdWrite hr s <;> cases hs.symm.trans h
  · rfl
  · exact serveWrite_sinkSide q s
  · rfl

/-! ## The packed form of a CMD write -/

/-- The packed form of a request is the word it was unpacked from (R90). -/
theorem packRequest_of_unpackRequest {r : BitVec 64} {q : Request} (h : unpackRequest r = some q) : packRequest q = r := by
  simp only [unpackRequest, Option.ite_none_right_eq_some, Option.some.injEq] at h
  obtain ⟨hzero, rfl⟩ := h
  have hwe : BitVec.ofBool (r.getLsbD 63) = r.extractLsb' 63 1 := by
    ext i hi
    obtain rfl : i = 0 := by omega
    simp
  rw [packRequest, ← hzero, hwe]
  simp only [BitVec.extractLsb'_append_extractLsb'_eq_extractLsb']
  exact BitVec.extractLsb'_eq_self

theorem eq_cmdRequest_of_isCmdWrite {q : Request} (h : isCmdWrite q = true) : q = cmdRequest q.wdata := by
  simp only [isCmdWrite, Bool.and_eq_true, decide_eq_true_eq] at h
  obtain ⟨we, space, offset, w⟩ := q
  obtain ⟨⟨rfl, rfl⟩, rfl⟩ := h
  rfl

/-- A request that reaches the sink is a CMD write of one of the four commands. -/
theorem serveRequest_reachesSink {r : BitVec 64} {s t : State} (h : serveRequest r s = .next t)
    (hne : sinkSide t ≠ sinkSide s) :
    ∃ w i, r = packRequest (cmdRequest w) ∧ decode w = .ok i ∧ reachesSink i := by
  by_cases hr : ∀ q, unpackRequest r = some q → isCmdWrite q = false
  · exact absurd (serveRequest_sinkSide hr h) hne
  · push Not at hr
    obtain ⟨q, hq, hc⟩ := hr
    rw [Bool.ne_false_iff] at hc
    rw [serveRequest_of_cmdWrite hq hc] at h
    obtain ⟨i, hw, hi⟩ := executeCmdWrite_reachesSink h hne
    exact ⟨q.wdata, i, by rw [← eq_cmdRequest_of_isCmdWrite hc, packRequest_of_unpackRequest hq], hw, hi⟩

/-- Settles O25: a step serves nothing, `rst`, or a request, and of these only a CMD write of one of the four commands reaches the
sink. Taking the event off the host's list leaves the sink's side as it is. -/
theorem onlyFourCommandsReachTheSink : Obligations.OnlyFourCommandsReachTheSink := by
  intro s t h hsink
  have hne : sinkSide t ≠ sinkSide s := (sinkSide_ne_iff s t).mpr hsink
  cases hin : s.inputs with
  | nil =>
    cases (step_of_no_input hin).symm.trans h
    exact absurd rfl hne
  | cons x later =>
    cases x with
    | rst =>
      cases (step_of_rst hin).symm.trans h
      exact absurd rfl hne
    | request r =>
      rw [step_of_request hin] at h
      obtain ⟨w, i, rfl, hw, hi⟩ := serveRequest_reachesSink (s := popInput s) h hne
      exact ⟨w, later, i, rfl, hw, hi⟩

/-! ## RESET -/

theorem exec_reset (s : State) : exec .reset s = .next (doReset s) := rfl

/-- `rst` as the host's next event takes the registers of the state without it to their power-on values (R260). -/
theorem step_rst_cons (s : State) : step { s with inputs := .rst :: s.inputs } = .next (powerOnReset s) :=
  step_of_rst (s := { s with inputs := .rst :: s.inputs }) rfl

/-- After RESET everything but CMD, the memories and PAR is as after power-on reset (R223). -/
theorem powerOnReset_eq_doReset (s : State) :
    powerOnReset s = { doReset s with
      cmd := (powerOnReset s).cmd, src := (powerOnReset s).src, cod := (powerOnReset s).cod, txb := (powerOnReset s).txb
      orb := (powerOnReset s).orb, par := (powerOnReset s).par, srcStale := (powerOnReset s).srcStale
      powerOns := (powerOnReset s).powerOns } := rfl

/-- Settles O15: RESET's meaning is `DoReset` without a check, whose fields the statement lists, and `rst` starts from `DoReset`. -/
theorem resetCommandRestoresTheRegisters : Obligations.ResetCommandRestoresTheRegisters := by
  refine ⟨by decide, fun s => ⟨exec_reset s, fun t u ht hu => ?_⟩⟩
  cases (exec_reset s).symm.trans ht
  cases (step_rst_cons s).symm.trans hu
  exact powerOnReset_eq_doReset s

end Sys2Proof.Machine

/-! The encoding (30_encoding.md): the command word is its immediate above its opcode, so decoding and encoding are inverse field by
field (R92 to R95); the opcode map (R94) follows from that; and the packed port request in numbers (R90). -/

namespace Sys2Proof

/-! ## The fields of a command word (R92) -/

@[simp] theorem opcodeOf_encode (i : Instr) : opcodeOf (encode i) = i.opcode := BitVec.extractLsb'_append_eq_right

@[simp] theorem immOf_encode (i : Instr) : immOf (encode i) = i.immediate := BitVec.extractLsb'_append_eq_left

theorem immOf_append_opcodeOf (w : Word) : immOf w ++ opcodeOf w = w := by
  have hjoin : immOf w ++ opcodeOf w = w.extractLsb' 0 32 := BitVec.extractLsb'_append_extractLsb'_eq_extractLsb' rfl
  rw [hjoin, BitVec.extractLsb'_eq_self]

/-- A word is given by its two fields. -/
theorem encode_eq_iff (i : Instr) (w : Word) : encode i = w ↔ i.immediate = immOf w ∧ i.opcode = opcodeOf w := by
  constructor
  · rintro rfl
    simp
  · rintro ⟨himm, hop⟩
    rw [encode, himm, hop, immOf_append_opcodeOf]

/-- TONE's opcode is no plain command's, and a plain command stands in the row of its own opcode (R94). -/
theorem plainCommand_eq_some_iff (op : Byte) (i : Instr) :
    plainCommand op = some i ↔ i.opcode = op ∧ i.opcode ≠ 0x13 := by
  constructor
  · intro h
    simp only [plainCommand, ite_eq_iff, Option.some.injEq, reduceCtorEq, and_false, or_false] at h
    obtain ⟨rfl, rfl⟩ | ⟨-, ⟨rfl, rfl⟩ | ⟨-, ⟨rfl, rfl⟩ | ⟨-, ⟨rfl, rfl⟩ | ⟨-, ⟨rfl, rfl⟩ | ⟨-, ⟨rfl, rfl⟩ | ⟨-, ⟨rfl, rfl⟩ |
      ⟨-, ⟨rfl, rfl⟩ | ⟨-, rfl, rfl⟩⟩⟩⟩⟩⟩⟩⟩ := h <;> decide
  · rintro ⟨rfl, hne⟩
    cases i with
    | tone n => exact absurd rfl hne
    | _ => rfl

/-- Only TONE has an operand to check, and only TONE an immediate other than 0 (R93). -/
theorem plain_of_opcode_ne {i : Instr} (h : i.opcode ≠ 0x13) : i.wellFormed = true ∧ i.immediate = 0 := by
  cases i with
  | tone n => exact absurd rfl h
  | _ => exact ⟨rfl, rfl⟩

theorem eq_tone_of_opcode {i : Instr} (h : i.opcode = 0x13) : ∃ n, i = .tone n := by
  cases i with
  | tone n => exact ⟨n, rfl⟩
  | _ => exact absurd h (by decide)

theorem wellFormed_tone_iff (n : Nat) : (Instr.tone n).wellFormed = true ↔ n < 2 ^ 24 := decide_eq_true_iff

/-- TONE's words carry their count in the immediate (R93). -/
theorem encode_tone_eq_iff {n : Nat} (h : n < 2 ^ 24) (w : Word) :
    encode (.tone n) = w ↔ opcodeOf w = 0x13 ∧ (immOf w).toNat = n := by
  have himm : BitVec.ofNat 24 n = immOf w ↔ (immOf w).toNat = n := by
    rw [← BitVec.toNat_inj, BitVec.toNat_ofNat, Nat.mod_eq_of_lt h, eq_comm]
  rw [encode_eq_iff, and_comm, eq_comm]
  exact and_congr Iff.rfl himm

/-- Decoding answers a command exactly on the command's own word, and only commands of the hardware (R95). -/
theorem decode_eq_ok_iff (w : Word) (i : Instr) : decode w = .ok i ↔ i.wellFormed = true ∧ encode i = w := by
  unfold decode
  by_cases htone : opcodeOf w = 0x13
  · rw [if_pos htone, Except.ok.injEq]
    constructor
    · rintro rfl
      have hlt : (immOf w).toNat < 2 ^ 24 := (immOf w).isLt
      exact ⟨(wellFormed_tone_iff _).mpr hlt, (encode_tone_eq_iff hlt w).mpr ⟨htone, rfl⟩⟩
    · rintro ⟨hwf, rfl⟩
      obtain ⟨n, rfl⟩ := eq_tone_of_opcode (htone ▸ opcodeOf_encode i).symm
      rw [((encode_tone_eq_iff ((wellFormed_tone_iff n).mp hwf) _).mp rfl).2]
  · rw [if_neg htone]
    constructor
    · intro h
      cases hplain : plainCommand (opcodeOf w) with
      | none => simp [hplain] at h
      | some j =>
        by_cases himm : immOf w = 0
        · obtain rfl : j = i := by simpa [hplain, himm] using h
          obtain ⟨hop, hne⟩ := (plainCommand_eq_some_iff _ _).mp hplain
          obtain ⟨hwf, hzero⟩ := plain_of_opcode_ne hne
          exact ⟨hwf, (encode_eq_iff j w).mpr ⟨hzero.trans himm.symm, hop⟩⟩
        · simp only [hplain, if_neg himm, reduceCtorEq] at h
    · rintro ⟨-, rfl⟩
      rw [opcodeOf_encode] at htone ⊢
      rw [immOf_encode, (plainCommand_eq_some_iff _ i).mpr ⟨rfl, htone⟩, (plain_of_opcode_ne htone).2]
      rfl

/-- Settles O1: the word of a well-formed command is one of the words `decode_eq_ok_iff` speaks of. -/
theorem decodeOfEncode : Obligations.DecodeOfEncode :=
  fun i hwf => (decode_eq_ok_iff (encode i) i).mpr ⟨hwf, rfl⟩

/-- Settles O2: the other direction of the same equivalence. -/
theorem encodeOfDecode : Obligations.EncodeOfDecode :=
  fun w i h => (decode_eq_ok_iff w i).mp h

/-! ## The opcode map (R94) -/

/-- A command with no operand is the decoding of one word. -/
theorem decode_eq_ok_iff_word {i : Instr} (hwf : i.wellFormed = true) {w' : Word} (hw : encode i = w') (w : Word) :
    decode w = .ok i ↔ w = w' := by
  rw [decode_eq_ok_iff, and_iff_right hwf, hw, eq_comm]

/-- The low byte of a word is its opcode field. -/
theorem and_lowByte_eq_iff (w : Word) : w &&& 0x000000FF = 0x00000013 ↔ opcodeOf w = 0x13 := by
  have hmask : w.toNat &&& 255 = w.toNat % 2 ^ 8 := Nat.and_two_pow_sub_one_eq_mod w.toNat 8
  simp [← BitVec.toNat_inj, opcodeOf, hmask]

theorem immOf_toNat (w : Word) : (immOf w).toNat = w.toNat / 256 := by
  have hw : w.toNat < 2 ^ 32 := w.isLt
  simp only [immOf, BitVec.extractLsb'_toNat, Nat.shiftRight_eq_div_pow]
  omega

theorem decode_eq_tone_iff (w : Word) (n : Nat) :
    decode w = .ok (.tone n) ↔ w &&& 0x000000FF = 0x00000013 ∧ n = w.toNat / 256 := by
  have hw : w.toNat < 2 ^ 32 := w.isLt
  rw [decode_eq_ok_iff, wellFormed_tone_iff, and_lowByte_eq_iff, ← immOf_toNat]
  constructor
  · rintro ⟨hn, he⟩
    obtain ⟨hop, himm⟩ := (encode_tone_eq_iff hn w).mp he
    exact ⟨hop, himm.symm⟩
  · rintro ⟨hop, rfl⟩
    exact ⟨(immOf w).isLt, (encode_tone_eq_iff (immOf w).isLt w).mpr ⟨hop, rfl⟩⟩

theorem decode_eq_error_iff (w : Word) : (∃ e, decode w = .error e) ↔ ∀ i, decode w ≠ .ok i := by
  cases decode w <;> simp

/-- The illegal words are those that select no row. -/
theorem decode_eq_error_iff_selects_no_row (w : Word) :
    (∃ e, decode w = .error e) ↔ ∀ row ∈ opcodeTable, w &&& row.mask ≠ row.pattern := by
  have hall : w &&& 0xFFFFFFFF = w := BitVec.and_allOnes
  have htone : w &&& 0x000000FF ≠ 0x00000013 ↔ ∀ n, decode w ≠ .ok (.tone n) := by
    simp [decode_eq_tone_iff]
  rw [decode_eq_error_iff]
  simp only [opcodeTable, List.forall_mem_cons, List.not_mem_nil, false_imp_iff, implies_true, and_true, hall, htone]
  constructor
  · intro h
    refine ⟨?_, ?_, ?_, ?_, ?_, ?_, ?_, fun n => h (.tone n), ?_, ?_⟩ <;> rintro rfl
    exacts [h .fecSize rfl, h .fecEncode rfl, h .escCount rfl, h .escEscape rfl, h .txStart rfl, h .txPump rfl,
      h .txCancel rfl, h .orbFlush rfl, h .reset rfl]
  · rintro ⟨hfs, hfe, hec, hee, hts, htp, htc, hto, hof, hrs⟩ i h
    have hi := ((decode_eq_ok_iff w i).mp h).2.symm
    cases i with
    | fecSize => exact hfs hi
    | fecEncode => exact hfe hi
    | escCount => exact hec hi
    | escEscape => exact hee hi
    | txStart => exact hts hi
    | txPump => exact htp hi
    | txCancel => exact htc hi
    | tone n => exact hto n h
    | orbFlush => exact hof hi
    | reset => exact hrs hi

/-- Settles O3: each row is the word of its command, TONE's the words with its opcode. -/
theorem decodeFollowsTheOpcodeMap : Obligations.DecodeFollowsTheOpcodeMap :=
  fun w =>
    ⟨decode_eq_ok_iff_word rfl rfl w, decode_eq_ok_iff_word rfl rfl w, decode_eq_ok_iff_word rfl rfl w,
      decode_eq_ok_iff_word rfl rfl w, decode_eq_ok_iff_word rfl rfl w, decode_eq_ok_iff_word rfl rfl w,
      decode_eq_ok_iff_word rfl rfl w, decode_eq_tone_iff w, decode_eq_ok_iff_word rfl rfl w,
      decode_eq_ok_iff_word rfl rfl w, decode_eq_error_iff_selects_no_row w⟩

/-- Settles O4: nine closed words. -/
theorem sampleWordsDecode : Obligations.SampleWordsDecode := by
  unfold Obligations.SampleWordsDecode
  decide

/-! ## The packed port request (R90) -/

theorem unpackRequest_eq_some_iff (r : BitVec 64) (q : Request) :
    unpackRequest r = some q ↔ r.extractLsb' 56 4 = 0 ∧
      q = { we := r.getLsbD 63, space := r.extractLsb' 60 3, offset := r.extractLsb' 32 24, wdata := r.extractLsb' 0 32 } := by
  rw [unpackRequest, Option.ite_none_right_eq_some, Option.some.injEq, eq_comm (b := q)]

/-- The zero field of format P is bits 59:56. -/
theorem unpackRequest_eq_none_iff (r : BitVec 64) : unpackRequest r = none ↔ r.toNat / 2 ^ 56 % 16 ≠ 0 := by
  simp [unpackRequest, ← BitVec.toNat_inj, Nat.shiftRight_eq_div_pow]

/-- Settles O5: the two inverses, and the fields of a request in numbers. -/
theorem requestPackingRoundTrips : Obligations.RequestPackingRoundTrips := by
  refine ⟨Machine.unpackRequest_packRequest, fun r q h => ⟨Machine.packRequest_of_unpackRequest h, ?_⟩,
    unpackRequest_eq_none_iff⟩
  obtain ⟨-, rfl⟩ := (unpackRequest_eq_some_iff r q).mp h
  simp [Nat.shiftRight_eq_div_pow]

end Sys2Proof

/-! The field (R110 to R112) and the codeword's roots (40_fec.md sections 1 to 3). `GfMul` is linear in each operand, and doubling one
operand doubles the product; every byte is made from 1 by doublings and ⊕, so the laws follow by induction along that. The remainder
register is followed by its value at a root r: one message symbol multiplies it by r and adds the symbol times r^32, the generator
being 0 there. -/

namespace Sys2Proof.Machine

/-! ## The laws of `GfMul` (R111) -/

section FieldLaws

variable (prim : BitVec 9)

theorem gfDouble_zero : gfDouble prim 0 = 0 := by
  have h := gfDouble_xor prim 0 0
  rwa [BitVec.xor_self, BitVec.xor_self] at h

/-- Induction over bytes as sums of doublings of 1 (R112). -/
theorem byte_induction {P : Byte → Prop} (zero : P 0) (one : P 1) (double : ∀ x, P x → P (gfDouble prim x))
    (add : ∀ x y, P x → P y → P (x ^^^ y)) (b : Byte) : P b := by
  have hpow : ∀ i, i < 8 → P (BitVec.twoPow 8 i) := by
    intro i
    induction i with
    | zero => exact fun _ => one
    | succ i ih => exact fun hi => gfDouble_twoPow prim (show i < 7 by omega) ▸ double _ (ih (by omega))
  have hlow : ∀ i, i ≤ 8 → P (lowBits b i) := by
    intro i
    induction i with
    | zero => exact fun _ => (lowBits_zero b).symm ▸ zero
    | succ i ih =>
      intro hi
      rw [lowBits_succ]
      split
      · exact add _ _ (ih (by omega)) (hpow i (by omega))
      · exact ih (by omega)
  exact lowBits_eight b ▸ hlow 8 le_rfl

theorem gfMulLoop_xor_right (b c : Byte) (n i : Nat) (p q x : Byte) :
    gfMulLoop prim (b ^^^ c) n i (p ^^^ q) x = gfMulLoop prim b n i p x ^^^ gfMulLoop prim c n i q x := by
  induction n generalizing i p q x with
  | zero => rfl
  | succ n ih =>
    have hprod : (if (b ^^^ c).getLsbD i then p ^^^ q ^^^ x else p ^^^ q) =
        (if b.getLsbD i then p ^^^ x else p) ^^^ (if c.getLsbD i then q ^^^ x else q) := by
      have hcancel : p ^^^ x ^^^ (q ^^^ x) = p ^^^ q ^^^ (x ^^^ x) := by ac_rfl
      rw [BitVec.getLsbD_xor]
      cases b.getLsbD i <;> cases c.getLsbD i <;> simp [hcancel] <;> ac_rfl
    rw [gfMulLoop, hprod, ih, gfMulLoop, gfMulLoop]

theorem gfMul_xor_right (a b c : Byte) : gfMul prim a (b ^^^ c) = gfMul prim a b ^^^ gfMul prim a c :=
  gfMulLoop_xor_right prim b c 8 0 0 0 a

theorem gfMul_zero_left (b : Byte) : gfMul prim 0 b = 0 := by
  have h := gfMul_xor_left prim 0 0 b
  rwa [BitVec.xor_self, BitVec.xor_self] at h

theorem gfMul_zero_right (a : Byte) : gfMul prim a 0 = 0 := by
  have h := gfMul_xor_right prim a 0 0
  rwa [BitVec.xor_self, BitVec.xor_self] at h

/-- 1 has bit 0 only, so the loop adds the multiplicand before any doubling. -/
theorem gfMul_one_right (a : Byte) : gfMul prim a 1 = a := by
  simp [gfMul, gfMulLoop]

theorem gfMulLoop_double (b : Byte) (n i : Nat) (p x : Byte) :
    gfMulLoop prim b n i (gfDouble prim p) (gfDouble prim x) = gfDouble prim (gfMulLoop prim b n i p x) := by
  induction n generalizing i p x with
  | zero => rfl
  | succ n ih =>
    have hprod : (if b.getLsbD i then gfDouble prim p ^^^ gfDouble prim x else gfDouble prim p) =
        gfDouble prim (if b.getLsbD i then p ^^^ x else p) := by
      rw [← gfDouble_xor, apply_ite (gfDouble prim)]
    rw [gfMulLoop, hprod, ih, gfMulLoop]

theorem gfMul_double_left (a b : Byte) : gfMul prim (gfDouble prim a) b = gfDouble prim (gfMul prim a b) := by
  have h := gfMulLoop_double prim b 8 0 0 a
  rwa [gfDouble_zero] at h

theorem gfMul_double_right (a b : Byte) : gfMul prim a (gfDouble prim b) = gfDouble prim (gfMul prim a b) := by
  induction a using byte_induction prim with
  | zero => simp only [gfMul_zero_left, gfDouble_zero]
  | one => simp only [gfMul_one_left]
  | double x ih => rw [gfMul_double_left, ih, gfMul_double_left]
  | add x y ihx ihy => rw [gfMul_xor_left, ihx, ihy, gfMul_xor_left, gfDouble_xor]

theorem gfMul_comm (a b : Byte) : gfMul prim a b = gfMul prim b a := by
  induction b using byte_induction prim with
  | zero => rw [gfMul_zero_left, gfMul_zero_right]
  | one => rw [gfMul_one_left, gfMul_one_right]
  | double x ih => rw [gfMul_double_left, gfMul_double_right, ih]
  | add x y ihx ihy => rw [gfMul_xor_left, gfMul_xor_right, ihx, ihy]

theorem gfMul_assoc (a b c : Byte) : gfMul prim (gfMul prim a b) c = gfMul prim a (gfMul prim b c) := by
  induction c using byte_induction prim with
  | zero => simp only [gfMul_zero_right]
  | one => simp only [gfMul_one_right]
  | double x ih => simp only [gfMul_double_right, ih]
  | add x y ihx ihy => simp only [gfMul_xor_right, ihx, ihy]

end FieldLaws

/-- Settles O35: the laws hold for every polynomial, of degree 8 or not: reduction never looks at bit 8. -/
theorem fieldMultiplicationLaws : Obligations.FieldMultiplicationLaws :=
  fun prim _ a b c => ⟨gfMul_comm prim a b, gfMul_assoc prim a b c, gfMul_xor_right prim a b c, gfMul_zero_right prim a,
    gfMul_one_right prim a⟩

/-! ## The layout of a codeword (R116) -/

/-- Settles O32: the codeword's parts in order: the chunk, the zero bytes after it, and the parity reversed. -/
theorem codewordIsSystematic : Obligations.CodewordIsSystematic := by
  intro prim chunk _ hlen
  have hmsg : (paddedMessage chunk).length = 223 := paddedMessage_length hlen
  refine ⟨encodeBlock_length prim hlen, ?chunk, fun i hi hi' => ?zeros, fun j hj => ?parity⟩
  case chunk => rw [encodeBlock, paddedMessage, List.append_assoc, List.take_left' rfl]
  case zeros =>
    rw [encodeBlock, List.getElem?_append_left (by omega), paddedMessage, List.getElem?_append_right hi,
      List.getElem?_replicate, if_pos (by simp only [Config.rsK]; omega)]
  case parity =>
    rw [encodeBlock, List.getElem?_append_right (by omega), hmsg, Nat.add_sub_cancel_left,
      List.getElem?_reverse (by rw [parAfter_length]; exact hj), parAfter_length]

/-! ## Polynomials by their values at one point -/

section Values

variable (prim : BitVec 9) (r : Byte)

/-- The value at `r` of the polynomial with the coefficients `cs`, lowest power first, as PAR and GEN list them (R115). -/
def evalLowFirst (cs : List Byte) : Byte := cs.foldr (fun c acc => gfMul prim acc r ^^^ c) 0

theorem evalLowFirst_nil : evalLowFirst prim r [] = 0 := rfl

theorem evalLowFirst_cons (c : Byte) (cs : List Byte) :
    evalLowFirst prim r (c :: cs) = gfMul prim (evalLowFirst prim r cs) r ^^^ c := rfl

/-- It is the codeword's own evaluation, of the coefficients in the other order. -/
theorem evalHighFirst_reverse (cs : List Byte) : evalHighFirst prim cs.reverse r = evalLowFirst prim r cs :=
  List.foldl_reverse

theorem evalHighFirst_append_singleton (cs : List Byte) (c : Byte) :
    evalHighFirst prim (cs ++ [c]) r = gfMul prim (evalHighFirst prim cs r) r ^^^ c := by
  simp [evalHighFirst]

/-- The multiplication by `r`, `n` times. -/
abbrev timesPow (n : Nat) (x : Byte) : Byte := (fun y => gfMul prim y r)^[n] x

theorem timesPow_xor (n : Nat) (x y : Byte) :
    timesPow prim r n (x ^^^ y) = timesPow prim r n x ^^^ timesPow prim r n y := by
  induction n generalizing x y with
  | zero => rfl
  | succ n ih => rw [timesPow, Function.iterate_succ_apply, gfMul_xor_left]; exact ih _ _

theorem timesPow_gfMul (n : Nat) (c x : Byte) : timesPow prim r n (gfMul prim c x) = gfMul prim c (timesPow prim r n x) := by
  induction n generalizing x with
  | zero => rfl
  | succ n ih => rw [timesPow, Function.iterate_succ_apply, gfMul_assoc]; exact ih _

theorem timesPow_zero (n : Nat) : timesPow prim r n 0 = 0 := by
  have h := timesPow_gfMul prim r n 0 0
  rwa [gfMul_zero_left, gfMul_zero_left] at h

theorem timesPow_succ (n : Nat) (x : Byte) : timesPow prim r (n + 1) x = gfMul prim (timesPow prim r n x) r :=
  Function.iterate_succ_apply' ..

theorem timesPow_succ' (n : Nat) (x : Byte) : timesPow prim r (n + 1) x = timesPow prim r n (gfMul prim x r) := rfl

theorem evalLowFirst_append_singleton (cs : List Byte) (c : Byte) :
    evalLowFirst prim r (cs ++ [c]) = evalLowFirst prim r cs ^^^ timesPow prim r cs.length c := by
  induction cs with
  | nil =>
    rw [List.nil_append, evalLowFirst_cons, evalLowFirst_nil, gfMul_zero_left]
    rfl
  | cons d cs ih =>
    rw [List.cons_append, evalLowFirst_cons, ih, gfMul_xor_left, evalLowFirst_cons, List.length_cons, timesPow_succ]
    ac_rfl

theorem evalLowFirst_xorBytes {a b : List Byte} (h : a.length = b.length) :
    evalLowFirst prim r (xorBytes a b) = evalLowFirst prim r a ^^^ evalLowFirst prim r b := by
  induction a generalizing b with
  | nil =>
    rw [List.length_eq_zero_iff.mp h.symm]
    exact (BitVec.xor_self (x := (0 : Byte))).symm
  | cons x a ih =>
    cases b with
    | nil => cases h
    | cons y b =>
      rw [xorBytes_cons, evalLowFirst_cons, ih (Nat.succ.inj h), gfMul_xor_left, evalLowFirst_cons, evalLowFirst_cons]
      ac_rfl

theorem evalLowFirst_map_gfMul (c : Byte) (cs : List Byte) :
    evalLowFirst prim r (cs.map (gfMul prim c)) = gfMul prim c (evalLowFirst prim r cs) := by
  induction cs with
  | nil => rw [List.map_nil, evalLowFirst_nil, gfMul_zero_right]
  | cons d cs ih => rw [List.map_cons, evalLowFirst_cons, ih, gfMul_assoc, evalLowFirst_cons, gfMul_xor_right]

/-- A zero coefficient at the bottom multiplies by `r`. -/
theorem evalLowFirst_zero_cons (cs : List Byte) :
    evalLowFirst prim r (0 :: cs) = gfMul prim (evalLowFirst prim r cs) r := by
  rw [evalLowFirst_cons]; exact BitVec.xor_zero

theorem evalLowFirst_zeros (n : Nat) : evalLowFirst prim r (List.replicate n 0) = 0 := by
  induction n with
  | zero => rfl
  | succ n ih => rw [List.replicate_succ, evalLowFirst_zero_cons, ih, gfMul_zero_left]

/-- Appending the codeword's lower part multiplies its upper part by a power of `r`. -/
theorem evalHighFirst_append (a b : List Byte) :
    evalHighFirst prim (a ++ b) r = timesPow prim r b.length (evalHighFirst prim a r) ^^^ evalHighFirst prim b r := by
  induction b using List.reverseRecOn with
  | nil =>
    rw [List.append_nil]
    exact BitVec.xor_zero.symm
  | append_singleton b c ih =>
    rw [← List.append_assoc, evalHighFirst_append_singleton, ih, evalHighFirst_append_singleton, gfMul_xor_left,
      List.length_append, List.length_singleton, timesPow_succ]
    ac_rfl

/-! ## The generator polynomial (R113) -/

/-- The factor (x ⊕ r') multiplies the value by r ⊕ r'. -/
theorem evalLowFirst_timesRoot (g : List Byte) (r' : Byte) :
    evalLowFirst prim r (timesRoot prim g r') = gfMul prim (evalLowFirst prim r g) (r ^^^ r') := by
  have hmap : g.map (fun c => gfMul prim c r') = g.map (gfMul prim r') :=
    List.map_congr_left fun c _ => gfMul_comm prim c r'
  have hscaled : evalLowFirst prim r (g.map (fun c => gfMul prim c r') ++ [0]) = gfMul prim (evalLowFirst prim r g) r' := by
    rw [evalLowFirst_append_singleton, List.length_map, timesPow_zero, hmap, evalLowFirst_map_gfMul, gfMul_comm]
    exact BitVec.xor_zero
  calc evalLowFirst prim r (timesRoot prim g r')
    _ = evalLowFirst prim r (0 :: g) ^^^ evalLowFirst prim r (g.map (fun c => gfMul prim c r') ++ [0]) :=
      evalLowFirst_xorBytes prim r (by simp)
    _ = gfMul prim (evalLowFirst prim r g) (r ^^^ r') := by rw [evalLowFirst_zero_cons, hscaled, gfMul_xor_right]

theorem evalLowFirst_foldl_timesRoot {roots : List Byte} {g : List Byte} (h : r ∈ roots ∨ evalLowFirst prim r g = 0) :
    evalLowFirst prim r (roots.foldl (timesRoot prim) g) = 0 := by
  induction roots generalizing g with
  | nil => exact h.resolve_left List.not_mem_nil
  | cons r' roots ih =>
    refine ih ?_
    rw [evalLowFirst_timesRoot]
    rcases h with h | h
    · rcases List.mem_cons.mp h with rfl | h
      · exact .inr (by rw [BitVec.xor_self]; exact gfMul_zero_right prim _)
      · exact .inl h
    · exact .inr (by rw [h, gfMul_zero_left])

/-- The generator is 0 at its roots. -/
theorem evalLowFirst_generator {r : Byte} (h : r ∈ generatorRoots prim) : evalLowFirst prim r (generator prim) = 0 :=
  evalLowFirst_foldl_timesRoot prim r (.inl h)

theorem timesRoot_monic (g : List Byte) (r' : Byte) :
    ∃ low, low.length = g.length + 1 ∧ timesRoot prim (g ++ [1]) r' = low ++ [1] := by
  refine ⟨xorBytes (0 :: g) ((g ++ [1]).map (fun c => gfMul prim c r')), by simp, ?_⟩
  rw [timesRoot, ← List.cons_append, List.zipWith_append (by simp)]
  rfl

theorem foldl_timesRoot_monic (roots : List Byte) (g : List Byte) :
    ∃ low, low.length = g.length + roots.length ∧ roots.foldl (timesRoot prim) (g ++ [1]) = low ++ [1] := by
  induction roots generalizing g with
  | nil => exact ⟨g, rfl, rfl⟩
  | cons r' roots ih =>
    obtain ⟨low, hlen, hlow⟩ := timesRoot_monic prim g r'
    obtain ⟨low', hlen', hlow'⟩ := ih low
    refine ⟨low', ?_, by rw [List.foldl_cons, hlow, hlow']⟩
    rw [hlen', hlen, List.length_cons]; omega

/-- GEN[32] is 1 (R42). -/
theorem generator_monic : generator prim = (generator prim).take 32 ++ [1] := by
  obtain ⟨low, hlen, hlow⟩ := foldl_timesRoot_monic prim (generatorRoots prim) []
  have hgen : generator prim = low ++ [1] := hlow
  have hlen : low.length = 32 := by simpa [generatorRoots, Config.rsT2] using hlen
  rw [hgen, List.take_left' hlen]

/-- Below its leading coefficient the generator's value at a root is r^32. -/
theorem evalLowFirst_take_generator {r : Byte} (h : r ∈ generatorRoots prim) :
    evalLowFirst prim r ((generator prim).take 32) = timesPow prim r 32 1 := by
  have hzero := evalLowFirst_generator prim h
  rw [generator_monic, evalLowFirst_append_singleton] at hzero
  have hlen : ((generator prim).take 32).length = 32 := by simp [generator_length]
  rw [hlen] at hzero
  exact BitVec.xor_eq_zero_iff.mp hzero

/-! ## The remainder register at a root (R116) -/

/-- One symbol: the register without its top, shifted up, ⊕ GEN times the feedback. -/
theorem parStep_eq_xorBytes (par : List Byte) (hpar : par.length = 32) (m : Byte) :
    parStep prim (generator prim) par m =
      xorBytes (0 :: par.take 31) (((generator prim).take 32).map (gfMul prim (m ^^^ par.getD 31 0))) := by
  have hlen : (0 :: par.take 31).length = 32 := by simp [hpar]
  rw [xorBytes, List.zipWith_map_right, parStep]
  conv_lhs => rw [generator_monic]
  generalize 0 :: par.take 31 = a at hlen
  rw [← List.append_nil a, List.zipWith_append (by simp [generator_length, hlen]), List.append_nil]
  simp

theorem evalLowFirst_parStep {r : Byte} (h : r ∈ generatorRoots prim) {par : List Byte} (hpar : par.length = 32) (m : Byte) :
    evalLowFirst prim r (parStep prim (generator prim) par m) =
      gfMul prim (evalLowFirst prim r par) r ^^^ timesPow prim r 32 m := by
  have htop : par = par.take 31 ++ [par.getD 31 0] := by
    rw [List.getD_eq_getElem par 0 (by omega), List.take_append_getElem, List.take_of_length_le (by omega)]
  have hshift : gfMul prim (evalLowFirst prim r par) r =
      gfMul prim (evalLowFirst prim r (par.take 31)) r ^^^ timesPow prim r 32 (par.getD 31 0) := by
    conv_lhs => rw [htop]
    rw [evalLowFirst_append_singleton, gfMul_xor_left, List.length_take, hpar, timesPow_succ prim r 31]
    rfl
  have hfeedback (x : Byte) : gfMul prim x (timesPow prim r 32 1) = timesPow prim r 32 x := by
    rw [← timesPow_gfMul, gfMul_one_right]
  rw [parStep_eq_xorBytes prim par hpar, evalLowFirst_xorBytes prim r (by simp [generator_length, hpar]),
    evalLowFirst_zero_cons, evalLowFirst_map_gfMul, evalLowFirst_take_generator prim h, hfeedback, timesPow_xor, hshift]
  rw [BitVec.xor_assoc, BitVec.xor_comm (timesPow prim r 32 m)]

/-- After a message the register's value at a root is the message's, times r^32. -/
theorem evalLowFirst_parAfter {r : Byte} (h : r ∈ generatorRoots prim) (message : List Byte) :
    evalLowFirst prim r (parAfter prim message) = timesPow prim r 32 (evalHighFirst prim message r) := by
  induction message using List.reverseRecOn with
  | nil => exact (evalLowFirst_zeros prim r 32).trans (timesPow_zero prim r 32).symm
  | append_singleton message m ih =>
    have hstep : parAfter prim (message ++ [m]) = parStep prim (generator prim) (parAfter prim message) m := by
      simp [parAfter]
    rw [hstep, evalLowFirst_parStep prim h (parAfter_length prim message), ih, evalHighFirst_append_singleton,
      timesPow_xor, ← timesPow_succ, timesPow_succ']

end Values

theorem alphaPow_mem_generatorRoots (prim : BitVec 9) {j : Nat} (h1 : 1 ≤ j) (h32 : j ≤ 32) :
    alphaPow prim j ∈ generatorRoots prim :=
  List.mem_map.mpr ⟨j - 1, List.mem_range.mpr (by simp only [Config.rsT2]; omega), by
    rw [show (Config.rsFcr + (j - 1)) * Config.rsGap = j by simp only [Config.rsFcr, Config.rsGap]; omega]⟩

/-- Settles O33: at a root the parity's value is the message's times r^32, and that is what the message's bytes stand for in the
codeword, so the two cancel. -/
theorem codewordHasTheGeneratorRoots : Obligations.CodewordHasTheGeneratorRoots := by
  intro prim chunk j _ _ h1 h32
  rw [encodeBlock, evalHighFirst_append, evalHighFirst_reverse, List.length_reverse, parAfter_length,
    evalLowFirst_parAfter prim (alphaPow_mem_generatorRoots prim h1 h32)]
  exact BitVec.xor_self

/-! ## Tones and the units of a session (R159 to R169) -/

/-- Settles O40, which is `synth_add`. -/
theorem tonesSplice : Obligations.TonesSplice := fun p w m n phase => synth_add p w m n phase

/-- Settles O42: each unit by its definition; the flush tone is the zero-frequency tone. -/
theorem unitsOfASession : Obligations.UnitsOfASession :=
  fun p _ _ phase => ⟨rfl, rfl, rfl, rfl, synth_zero_frequency p p.flushNs phase⟩

end Sys2Proof.Machine

/-! The port (20_memory.md) and the common ends of the commands (44_system.md section 1): what one request reads or stores, what a CMD
write runs, and the two refusals of a pump or a cancel outside a session. -/

namespace Sys2Proof.Machine

/-! ## A CMD write runs its command (R220) -/

theorem executeCmdWrite_of_ok {w : Word} {i : Instr} (h : decode w = .ok i) (s : State) :
    executeCmdWrite w s = exec i (acceptCmd w s) := by
  simp [executeCmdWrite, h]

/-- Settles O6: the step executes the word's CMD write from the accepting state. -/
theorem stepRunsTheDecodedCommand : Obligations.StepRunsTheDecodedCommand := by
  intro s w later i hin hw _
  rw [step_of_cmdWrite hin, executeCmdWrite_of_ok hw, acceptCmd_popInput hin]

/-- Every command but RESET makes the common check first (R220, R234). -/
theorem exec_eq_unlessFaulted {i : Instr} (hi : i ≠ .reset) : ∃ body, ∀ s, exec i s = unlessFaulted s body := by
  cases i with
  | reset => exact absurd rfl hi
  | _ => exact ⟨_, fun _ => rfl⟩

theorem exec_of_fault {i : Instr} (hi : i ≠ .reset) {s : State} (h : s.status.fault = true) :
    exec i s = .next (finishError .faulted s) := by
  obtain ⟨body, hexec⟩ := exec_eq_unlessFaulted hi
  exact (hexec s).trans (unlessFaulted_of_fault h body)

/-- Settles O8: a word that is not RESET's is illegal or some other command's, and both make the common check first. -/
theorem faultedBlockRefusesCommands : Obligations.FaultedBlockRefusesCommands := by
  intro s w later hin hfault hne
  rw [step_of_cmdWrite hin]
  cases hw : decode w with
  | error e =>
    rw [executeCmdWrite_of_error hw, acceptCmd_popInput hin]
    apply execIllegal_of_fault
    exact hfault
  | ok i =>
    have hi : i ≠ .reset := by
      rintro rfl
      exact hne ((decode_eq_ok_iff w .reset).mp hw).2.symm
    rw [executeCmdWrite_of_ok hw, acceptCmd_popInput hin]
    exact exec_of_fault hi hfault

/-! ## TX_PUMP and TX_CANCEL outside a session (R177, R182) -/

theorem exec_txPump (s : State) :
    exec .txPump s =
      unlessFaulted s (fun s => if s.status.transmitting then runSequencer s else .next (raiseFault .noSession 0 s)) := rfl

theorem exec_txCancel (s : State) :
    exec .txCancel s =
      unlessFaulted s (fun s =>
        if s.status.transmitting then runSequencer (beginCancel s) else .next (finishError .validation s)) := rfl

theorem exec_txPump_of_clear {s : State} (h : s.status.fault = false) :
    exec .txPump s = if s.status.transmitting then runSequencer s else .next (raiseFault .noSession 0 s) := by
  rw [exec_txPump, unlessFaulted_of_clear h]

theorem exec_txCancel_of_clear {s : State} (h : s.status.fault = false) :
    exec .txCancel s =
      if s.status.transmitting then runSequencer (beginCancel s) else .next (finishError .validation s) := by
  rw [exec_txCancel, unlessFaulted_of_clear h]

/-- Settles O44: past the common check both commands look at TRANSMITTING first. -/
theorem pumpAndCancelNeedASession : Obligations.PumpAndCancelNeedASession := by
  intro s hclear ht
  rw [exec_txPump_of_clear hclear, exec_txCancel_of_clear hclear, ht, raiseFault_of_clear hclear, finishError_eq]
  exact ⟨rfl, rfl⟩

/-! ## Reads (R63, R64, R73) -/

/-- A read does not look at the host's pending events. -/
theorem portRead_popInput (q : Request) (s : State) : portRead q (popInput s) = portRead q s := rfl

theorem respond_popInput {s : State} {x : Input} {later : List Input} (h : s.inputs = x :: later) (r : Response) :
    respond r (popInput s) = { s with inputs := later, responses := s.responses ++ [r] } := by
  simp [respond, popInput, h]

/-- A step that serves a read with data to answer. -/
theorem step_of_read {s : State} {r : BitVec 64} {later : List Input} {q : Request} (hin : s.inputs = .request r :: later)
    (hq : unpackRequest r = some q) (hr : q.we = false) {v : Word} (hv : portRead q s = some v) :
    step s = .next { s with inputs := later, responses := s.responses ++ [.ok v] } := by
  rw [step_of_request hin, serveRequest_of_read hq hr, readResponse, portRead_popInput, hv, respond_popInput hin]

/-- The register at an offset is the one the register file lists there. -/
theorem registerFile_of_readReg {off : BitVec 24} {s : State} {v : Word} (h : readReg off s = some v) :
    (registerFile s)[off.toNat / 4]? = some v := by
  unfold readReg at h
  iterate 14
    obtain ⟨rfl, h⟩ | ⟨-, h⟩ := ite_eq_iff.mp h
    · exact h
  cases h

theorem portRead_reg {q : Request} (h : q.space = 0) (s : State) : portRead q s = readReg q.offset s := by
  simp [portRead, h, spaceOfCode]

/-- A read of a byte memory answers the byte there, zero-extended (R64). -/
theorem portRead_mem {q : Request} {b : ByteSpace} (h : q.space = codeOfSpace (.mem b)) {s : State} {v : Word}
    (hv : portRead q s = some v) : v.toNat = (hostByte b q.offset.toNat s).toNat := by
  have hspace : spaceOfCode q.space = some (.mem b) := by rw [h]; cases b <;> rfl
  simp only [portRead, hspace, Option.ite_none_right_eq_some, Option.some.injEq] at hv
  obtain ⟨-, rfl⟩ := hv
  have hlt : (hostByte b q.offset.toNat s).toNat < 2 ^ 8 := BitVec.isLt _
  rw [BitVec.toNat_setWidth, Nat.mod_eq_of_lt (by omega)]

/-- Settles O10: a read that is not refused has data to answer, the register's or the byte's. -/
theorem readsAnswerTheLocation : Obligations.ReadsAnswerTheLocation := by
  intro s r later q hin hq hr hserved
  obtain ⟨v, hv⟩ := Option.ne_none_iff_exists'.mp (mt (portRead_eq_none_iff_refusal hr s).mp hserved)
  refine ⟨v, step_of_read hin hq hr hv, fun hspace => ?_, fun b hspace => ⟨?_, fun hvalid => ?_⟩⟩
  · exact registerFile_of_readReg ((portRead_reg hspace s).symm.trans hv)
  · rw [portRead_mem hspace hv]
    exact BitVec.isLt _
  · rw [portRead_mem hspace hv, hostByte, if_pos hvalid]

/-! ## The fields of STATUS (R23) -/

section StatusFields

variable (st : Status)

theorem statusWord_code : (statusWord st).extractLsb' 0 4 = codeBits st.code := BitVec.extractLsb'_append_eq_right

theorem statusWord_cause : (statusWord st).extractLsb' 4 4 = causeBits st.cause :=
  (BitVec.extractLsb'_append_eq_of_le (by decide)).trans BitVec.extractLsb'_append_eq_right

/-- What is cut out above CODE, CAUSE and the four single bits is cut out of the upper fields. -/
theorem statusWord_upper {start len : Nat} (h : 12 ≤ start) :
    (statusWord st).extractLsb' start len =
      ((0 : BitVec 12) ++ causeBits st.fcause ++ mstateBits st.mstate).extractLsb' (start - 12) len := by
  rw [statusWord]
  iterate 6 rw [BitVec.extractLsb'_append_eq_of_le (by omega)]
  rfl

theorem statusWord_mstate : (statusWord st).extractLsb' 12 4 = mstateBits st.mstate :=
  (statusWord_upper st le_rfl).trans BitVec.extractLsb'_append_eq_right

theorem statusWord_fcause : (statusWord st).extractLsb' 16 4 = causeBits st.fcause :=
  (statusWord_upper st (by decide)).trans
    ((BitVec.extractLsb'_append_eq_of_le (by decide)).trans BitVec.extractLsb'_append_eq_right)

theorem statusWord_reserved_high : (statusWord st).extractLsb' 20 12 = 0 :=
  (statusWord_upper st (by decide)).trans ((BitVec.extractLsb'_append_eq_of_le (by decide)).trans
    ((BitVec.extractLsb'_append_eq_of_le (by decide)).trans BitVec.extractLsb'_eq_self))

/-- A bit is a field of one bit. -/
theorem getLsbD_of_extractLsb' {w : Word} {i : Nat} {b : Bool} (h : w.extractLsb' i 1 = BitVec.ofBool b) : w.getLsbD i = b := by
  simpa using congrArg (BitVec.getLsbD · 0) h

theorem statusWord_transmitting : (statusWord st).getLsbD 8 = st.transmitting := by
  apply getLsbD_of_extractLsb'
  rw [statusWord]
  iterate 2 rw [BitVec.extractLsb'_append_eq_of_le (by decide)]
  exact BitVec.extractLsb'_append_eq_right

theorem statusWord_fault : (statusWord st).getLsbD 9 = st.fault := by
  apply getLsbD_of_extractLsb'
  rw [statusWord]
  iterate 3 rw [BitVec.extractLsb'_append_eq_of_le (by decide)]
  exact BitVec.extractLsb'_append_eq_right

theorem statusWord_cancelling : (statusWord st).getLsbD 10 = st.cancelling := by
  apply getLsbD_of_extractLsb'
  rw [statusWord]
  iterate 4 rw [BitVec.extractLsb'_append_eq_of_le (by decide)]
  exact BitVec.extractLsb'_append_eq_right

theorem statusWord_reserved_low : (statusWord st).getLsbD 11 = false := by
  apply getLsbD_of_extractLsb'
  rw [statusWord]
  iterate 5 rw [BitVec.extractLsb'_append_eq_of_le (by decide)]
  exact BitVec.extractLsb'_append_eq_right

end StatusFields

/-- Settles O11: the request is a read at 0x08, and the fields of the word it answers are the model's numbers of the fields. -/
theorem statusReadGivesItsFields : Obligations.StatusReadGivesItsFields := by
  intro s later hin codeNumber causeNumber stateNumber
  have hcode : codeBits s.status.code = codeNumber := by simp only [codeNumber]; cases s.status.code <;> rfl
  have hcause : ∀ c, causeBits c = causeNumber c := fun c => by cases c <;> rfl
  have hstate : mstateBits s.status.mstate = stateNumber := by simp only [stateNumber]; cases s.status.mstate <;> rfl
  refine ⟨statusWord s.status,
    step_of_read (q := { we := false, space := 0, offset := 0x08, wdata := 0 }) hin (by decide) rfl rfl, ?_⟩
  rw [← hcode, ← hcause, ← hcause, ← hstate]
  exact ⟨statusWord_code _, statusWord_cause _, statusWord_transmitting _, statusWord_fault _, statusWord_cancelling _,
    statusWord_reserved_low _, statusWord_mstate _, statusWord_fcause _, statusWord_reserved_high _⟩

/-! ## Writes (R63 to R67) -/

/-- A step that serves a write that is not refused and no CMD write. -/
theorem step_of_served_write {s : State} {r : BitVec 64} {later : List Input} {q : Request}
    (hin : s.inputs = .request r :: later) (hq : unpackRequest r = some q) (hw : q.we = true) (hc : isCmdWrite q = false)
    (hserved : ¬ portRefusal q s) :
    ∃ t, portWrite q (popInput s) = some t ∧ step s = .next (respond (.ok 0) t) := by
  obtain ⟨t, ht⟩ := Option.ne_none_iff_exists'.mp (mt (portWrite_eq_none_iff_refusal hw hc (popInput s)).mp hserved)
  exact ⟨t, ht, by rw [step_of_request hin, serveRequest_of_write hq hw hc, serveWrite, ht]⟩

theorem isCmdWrite_eq_false_of_offset {q : Request} (h : q.offset.toNat ≠ 0x04) : isCmdWrite q = false :=
  Bool.eq_false_iff.mpr fun hc => h ((isCmdWrite_iff q).mp hc).2.2

theorem isCmdWrite_eq_false_of_space {q : Request} (h : q.space ≠ 0) : isCmdWrite q = false :=
  Bool.eq_false_iff.mpr fun hc => h ((isCmdWrite_iff q).mp hc).2.1

theorem portWrite_reg {q : Request} (h : q.space = 0) (s : State) : portWrite q s = writeReg q.offset q.wdata s := by
  simp [portWrite, h, spaceOfCode]

theorem writeReg_arg0 (v : Word) (s : State) : writeReg 0x10 v s = some { s with arg0 := v } := rfl

theorem eq_of_writeReg_cfg {v : Word} {s t : State} (h : writeReg 0x18 v s = some t) : t = { s with cfg := v } := by
  rw [writeReg, if_neg (by decide), if_pos rfl, Option.ite_none_right_eq_some] at h
  exact (Option.some.inj h.2).symm

theorem eq_of_writeReg_srcLen {v : Word} {s t : State} (h : writeReg 0x1C v s = some t) : t = { s with srcLen := v } := by
  rw [writeReg, if_neg (by decide), if_neg (by decide), if_pos rfl, Option.ite_none_right_eq_some] at h
  exact (Option.some.inj h.2).symm

/-- Settles O12: a served register write is `writeReg`'s, and the offset says which register. -/
theorem registerWritesStoreTheWord : Obligations.RegisterWritesStoreTheWord := by
  intro s r later q hin hq hw hspace hserved
  have hstep (off : BitVec 24) (hoff : q.offset.toNat = off.toNat) (hne : off ≠ 0x04) :
      ∃ t, writeReg off q.wdata (popInput s) = some t ∧ step s = .next (respond (.ok 0) t) := by
    obtain rfl : q.offset = off := BitVec.eq_of_toNat_eq hoff
    have hc : isCmdWrite q = false := isCmdWrite_eq_false_of_offset fun h => hne (BitVec.eq_of_toNat_eq h)
    rw [← portWrite_reg hspace]
    exact step_of_served_write hin hq hw hc hserved
  refine ⟨fun hoff => ?arg0, fun hoff => ?cfg, fun hoff => ?srcLen⟩
  case arg0 =>
    obtain ⟨t, ht, hs⟩ := hstep 0x10 hoff (by decide)
    cases (writeReg_arg0 ..).symm.trans ht
    simp [hs, respond, popInput, hin]
  case cfg =>
    obtain ⟨t, ht, hs⟩ := hstep 0x18 hoff (by decide)
    simp [hs, eq_of_writeReg_cfg ht, respond, popInput, hin]
  case srcLen =>
    obtain ⟨t, ht, hs⟩ := hstep 0x1C hoff (by decide)
    simp [hs, eq_of_writeReg_srcLen ht, respond, popInput, hin]

/-- A served write to SRC stores the low byte of a word that has no more (R66). -/
theorem portWrite_src {q : Request} (h : q.space = 1) {s t : State} (ht : portWrite q s = some t) :
    q.wdata.toNat < 256 ∧ t = storeBytes .src q.offset.toNat [q.wdata.extractLsb' 0 8] s := by
  have hserved := mt (portWrite_src_eq_none_iff h s).mpr (by simp [ht])
  rw [not_not] at hserved
  obtain ⟨hin, hbyte, htr⟩ := hserved
  have hbyte' : q.wdata.extractLsb' 8 24 = 0 := (byteLegal_iff q.wdata).mpr hbyte
  simp only [portWrite, h, spaceOfCode] at ht
  simp [hin, hbyte', htr] at ht
  exact ⟨hbyte, ht.symm⟩

/-- Settles O13: the write stores a run of one byte. -/
theorem srcWriteReadsBack : Obligations.SrcWriteReadsBack := by
  intro s r later q hin hq hw hspace hserved hwf
  obtain ⟨t, ht, hs⟩ := step_of_served_write hin hq hw (isCmdWrite_eq_false_of_space (by simp [hspace])) hserved
  obtain ⟨hbyte, rfl⟩ := portWrite_src hspace ht
  refine ⟨_, hs, ?fields, ?same, fun a ha => ?other⟩
  case fields =>
    simp [respond, storeBytes, markWritten, setMem, popInput, hin]
  case same =>
    have hread := byteAt_storeBytes_inside .src q.offset.toNat 0 [q.wdata.extractLsb' 0 8] (popInput s) (by simp)
    refine (congrArg BitVec.toNat hread).trans ?_
    simp only [List.getElem_cons_zero, BitVec.extractLsb'_toNat, Nat.shiftRight_zero]
    omega
  case other =>
    exact byteAt_storeBytes_outside (b := .src) (s := popInput s) hwf q.offset.toNat a [q.wdata.extractLsb' 0 8]
      (by simp only [List.length_singleton]; omega)

/-! ## Power-on reset (R51, R260) -/

/-- Settles O16: the step is power-on reset without the event; its memories list nothing, so every byte is a power-on byte. -/
theorem powerOnResetRestoresTheRegisters : Obligations.PowerOnResetRestoresTheRegisters := by
  intro s later hin
  refine ⟨_, step_of_rst hin, ?_, fun b a => byteAt_of_unwritten (by cases b <;> rfl) a⟩
  have hpop : popInput s = { s with inputs := later } := by simp [popInput, hin]
  rw [hpop]
  rfl

/-- Settles O17: fourteen closed values. -/
theorem resetStateReadsAsTheTable : Obligations.ResetStateReadsAsTheTable := by
  unfold Obligations.ResetStateReadsAsTheTable
  decide

end Sys2Proof.Machine

/-! What one pass of the sequencer's loop (R172), one command and one step can do, said once: an inductive predicate lists the ways
each can end, and the statements about the whole machine are proved by cases over them. A pass that sends something sends one unit;
`unitAt` is the table of these units. -/

namespace Sys2Proof.Machine

/-! ## Units -/

/-- A unit the sequencer sends: its length, the samples it makes from PHASE, the state it leads to, and the data bytes it takes. -/
structure SessionUnit where
  len : Nat
  gen : Word → List Byte × Word
  next : MState
  bytes : Nat

/-- The unit the sequencer sends next, where the pass at MSTATE sends one (R171, R172). -/
def unitAt (s : State) : Option SessionUnit :=
  match s.status.mstate with
  | .leader => some ⟨leaderNs s.params, leaderTone s.params, .sync0, 0⟩
  | .sync0 => some ⟨frameNs s.params, syncFrame s.params s.cfg, .sync1, 0⟩
  | .sync1 => some ⟨frameNs s.params, syncFrame s.params s.cfg, .data, 0⟩
  | .data =>
    if s.cursor = s.sesLen then none else some ⟨frameNs s.params, dataFrame s.params s.cfg (sessionByte s), .data, 1⟩
  | .trailer =>
    some ⟨trailerNs s.params, trailerTone s.params, if s.status.cancelling then .flushTone else .drain, 0⟩
  | .flushTone => some ⟨s.params.flushNs, flushTone s.params, .drain, 0⟩
  | .drain | .finish | .idle => none

theorem unitAt_cases {s : State} {u : SessionUnit} (h : unitAt s = some u) :
    (s.status.mstate = .leader ∧ u = ⟨leaderNs s.params, leaderTone s.params, .sync0, 0⟩) ∨
      (s.status.mstate = .sync0 ∧ u = ⟨frameNs s.params, syncFrame s.params s.cfg, .sync1, 0⟩) ∨
      (s.status.mstate = .sync1 ∧ u = ⟨frameNs s.params, syncFrame s.params s.cfg, .data, 0⟩) ∨
      (s.status.mstate = .data ∧ s.cursor ≠ s.sesLen ∧
        u = ⟨frameNs s.params, dataFrame s.params s.cfg (sessionByte s), .data, 1⟩) ∨
      (s.status.mstate = .trailer ∧ u =
        ⟨trailerNs s.params, trailerTone s.params, if s.status.cancelling then .flushTone else .drain, 0⟩) ∨
      (s.status.mstate = .flushTone ∧ u = ⟨s.params.flushNs, flushTone s.params, .drain, 0⟩) := by
  unfold unitAt at h
  cases hm : s.status.mstate <;> simp only [hm, Option.some.injEq, reduceCtorEq, Option.ite_none_left_eq_some] at h
  all_goals simp [h]

/-- What `EmitUnit` does to the state where the unit fits (R163). -/
def writeUnit (gen : Word → List Byte × Word) (s : State) : State :=
  autoHandoff (orbWrite (gen s.phase).1 { s with phase := (gen s.phase).2 })

/-- A unit written, its data bytes counted in CURSOR, MSTATE moved on. -/
def sendUnit (u : SessionUnit) (s : State) : State :=
  setMState u.next { writeUnit u.gen s with cursor := s.cursor + BitVec.ofNat 32 u.bytes }

theorem emitUnit_eq_writeUnit {len : Nat} {s : State} (h : s.orbSize.toNat + len ≤ s.params.orbMax)
    (gen : Word → List Byte × Word) : emitUnit len gen s = .goesOn (writeUnit gen s) :=
  emitUnit_of_room h gen

/-- A unit writes ORB, ORB_SIZE, PHASE and the sink's log only. -/
theorem writeUnit_frame (gen : Word → List Byte × Word) (s : State) :
    writeUnit gen s = { s with
      orb := memWrite s.orb s.orbSize.toNat (gen s.phase).1, orbSize := (writeUnit gen s).orbSize
      phase := (gen s.phase).2, sinkLog := (writeUnit gen s).sinkLog } :=
  autoHandoff_frame (orbWrite (gen s.phase).1 { s with phase := (gen s.phase).2 })

@[simp] theorem writeUnit_status (gen : Word → List Byte × Word) (s : State) : (writeUnit gen s).status = s.status := by
  rw [writeUnit_frame]
@[simp] theorem writeUnit_cursor (gen : Word → List Byte × Word) (s : State) : (writeUnit gen s).cursor = s.cursor := by
  rw [writeUnit_frame]

/-- A unit that takes no byte and keeps MSTATE changes nothing but what it writes. -/
theorem sendUnit_of_no_bytes {len : Nat} (gen : Word → List Byte × Word) (next : MState) (s : State) :
    sendUnit ⟨len, gen, next, 0⟩ s = setMState next (writeUnit gen s) := by
  have hcursor : s.cursor + BitVec.ofNat 32 0 = (writeUnit gen s).cursor := by simp
  rw [sendUnit, hcursor]

theorem sendUnit_of_data {len : Nat} (gen : Word → List Byte × Word) {s : State} (h : s.status.mstate = .data) :
    sendUnit ⟨len, gen, .data, 1⟩ s = { writeUnit gen s with cursor := (writeUnit gen s).cursor + 1 } := by
  have hm : (writeUnit gen s).status.mstate = .data := by rw [writeUnit_status, h]
  rw [sendUnit, ← hm, ← writeUnit_cursor gen s]
  rfl

/-! ## One pass of the loop -/

/-- The ways a pass can end (R172), each with what it found. -/
inductive PassOutcome (n : Nat) (s : State) : Pass → Prop
  | idle (at_idle : s.status.mstate = .idle) : PassOutcome n s .idle
  | busy (not_ready : (sinkPoll s).1 = false) : PassOutcome n s (.done (finishWith .busy (sinkPoll s).2))
  | unescaped (at_data : s.status.mstate = .data) (data_left : s.cursor ≠ s.sesLen) (ready : (sinkPoll s).1 = true)
      (sync : sessionByte s = Config.syncByte) :
      PassOutcome n s (.done (raiseFault .unescapedSync s.cursor (sinkPoll s).2))
  | overflow {u : SessionUnit} (unit : unitAt s = some u) (ready : (sinkPoll s).1 = true)
      (no_room : s.params.orbMax < s.orbSize.toNat + u.len) :
      PassOutcome n s (.done (raiseFault .orbOverflow (BitVec.ofNat 32 (s.orbSize.toNat + u.len)) (sinkPoll s).2))
  | sent {u : SessionUnit} (unit : unitAt s = some u) (ready : (sinkPoll s).1 = true)
      (room : s.orbSize.toNat + u.len ≤ s.params.orbMax) (below_bound : s.status.mstate = .data → n ≠ Config.pumpMax) :
      PassOutcome n s (.again (n + u.bytes) (sendUnit u (sinkPoll s).2))
  | callEnds (at_data : s.status.mstate = .data) (bound : if s.cursor = s.sesLen then 0 < n else n = Config.pumpMax) :
      PassOutcome n s (.done (finishWith .inProgress s))
  | dataSent (at_data : s.status.mstate = .data) (no_data : s.cursor = s.sesLen) (first : n = 0) :
      PassOutcome n s (.again n (setMState .trailer s))
  | drained (at_drain : s.status.mstate = .drain) (empty : s.orbSize = 0) :
      PassOutcome n s (.again n (setMState .finish s))
  | flushed (at_drain : s.status.mstate = .drain) (pending : s.orbSize ≠ 0) (ready : (sinkPoll s).1 = true) :
      PassOutcome n s (.again n (setMState .finish (orbFlush (sinkPoll s).2)))
  | ended (at_finish : s.status.mstate = .finish) (ready : (sinkPoll s).1 = true) :
      PassOutcome n s
        (.done (finishWith (if s.status.cancelling then .cancelled else .complete) (endSession (sinkPoll s).2)))

/-- A poll takes an answer, if one is fixed, and counts itself (R204). -/
theorem sinkPoll_snd (s : State) :
    (sinkPoll s).2 = { s with sinkAnswers := s.sinkAnswers.drop 1, polls := s.polls + 1 } := by
  unfold sinkPoll
  split <;> simp [*]

/-- A poll leaves the session's next byte as it is. -/
theorem sessionByte_sinkPoll (s : State) : sessionByte (sinkPoll s).2 = sessionByte s := by
  rw [sessionByte, sinkPoll_cursor]
  exact byteAt_congr (b := .txb) (sinkPoll_txb s) (sinkPoll_powerOns s) (fun _ => sinkPoll_srcStale s) _

/-- A part of a command that polls and then emits one unit: what the poll and the capacity check decide. -/
theorem poll_emit_cases (len : Nat) (gen : Word → List Byte × Word) (s : State) :
    ((sinkPoll s).1 = false ∧ pollOrBusy s = .ended (finishWith .busy (sinkPoll s).2)) ∨
      ((sinkPoll s).1 = true ∧ pollOrBusy s = .goesOn (sinkPoll s).2 ∧
        ((s.params.orbMax < s.orbSize.toNat + len ∧ emitUnit len gen (sinkPoll s).2 =
            .ended (raiseFault .orbOverflow (BitVec.ofNat 32 (s.orbSize.toNat + len)) (sinkPoll s).2)) ∨
          (s.orbSize.toNat + len ≤ s.params.orbMax ∧
            emitUnit len gen (sinkPoll s).2 = .goesOn (writeUnit gen (sinkPoll s).2)))) := by
  obtain ⟨hready, hp⟩ | ⟨hbusy, hp⟩ := pollOrBusy_cases s
  · refine .inr ⟨hready, hp, ?_⟩
    rcases Nat.lt_or_ge s.params.orbMax (s.orbSize.toNat + len) with h | h
    · left
      have he := emitUnit_of_overflow (s := (sinkPoll s).2) (len := len) (by simpa using h) gen
      exact ⟨h, by simpa using he⟩
    · exact .inr ⟨h, emitUnit_eq_writeUnit (by simpa using h) gen⟩
  · exact .inl ⟨hbusy, hp⟩

theorem unitPass_outcome {n len : Nat} {gen : Word → List Byte × Word} {next : MState} {s : State}
    (hunit : unitAt s = some ⟨len, gen, next, 0⟩) (hm : s.status.mstate ≠ .data) :
    PassOutcome n s (unitPass n len gen next s) := by
  obtain ⟨hbusy, hp⟩ | ⟨hready, hp, ⟨hfull, he⟩ | ⟨hroom, he⟩⟩ := poll_emit_cases len gen s
  · simp only [unitPass, hp]
    exact .busy hbusy
  · simp only [unitPass, hp, he]
    exact .overflow hunit hready hfull
  · simp only [unitPass, hp, he, ← sendUnit_of_no_bytes (len := len)]
    exact .sent hunit hready hroom (fun h => absurd h hm)

theorem dataBytePass_outcome {n : Nat} {s : State} (hm : s.status.mstate = .data) (hc : s.cursor ≠ s.sesLen)
    (hn : n ≠ Config.pumpMax) : PassOutcome n s (dataBytePass n s) := by
  have hunit : unitAt s = some ⟨frameNs s.params, dataFrame s.params s.cfg (sessionByte s), .data, 1⟩ := by
    simp only [unitAt, hm, if_neg hc]
  by_cases hsync : sessionByte s = Config.syncByte
  · obtain ⟨hready, hp⟩ | ⟨hbusy, hp⟩ := pollOrBusy_cases s
    · simp only [dataBytePass, hp, sessionByte_sinkPoll, if_pos hsync, sinkPoll_cursor]
      exact .unescaped hm hc hready hsync
    · simp only [dataBytePass, hp]
      exact .busy hbusy
  · obtain ⟨hbusy, hp⟩ | ⟨hready, hp, ⟨hfull, he⟩ | ⟨hroom, he⟩⟩ :=
      poll_emit_cases (frameNs s.params) (dataFrame s.params s.cfg (sessionByte s)) s
    · simp only [dataBytePass, hp]
      exact .busy hbusy
    · simp only [dataBytePass, hp, sessionByte_sinkPoll, if_neg hsync, sinkPoll_params, sinkPoll_cfg, he]
      exact .overflow hunit hready hfull
    · have hm' : (sinkPoll s).2.status.mstate = .data := by rw [sinkPoll_status, hm]
      simp only [dataBytePass, hp, sessionByte_sinkPoll, if_neg hsync, sinkPoll_params, sinkPoll_cfg, he,
        ← sendUnit_of_data (len := frameNs s.params) _ hm']
      exact .sent hunit hready hroom (fun _ => hn)

theorem dataPass_outcome {n : Nat} {s : State} (hm : s.status.mstate = .data) : PassOutcome n s (dataPass n s) := by
  obtain ⟨hc, hn, h⟩ | ⟨hc, hn, h⟩ | ⟨hc, hn, h⟩ | ⟨hc, hn, h⟩ := dataPass_cases n s <;> rw [h]
  · exact .callEnds hm (by rwa [if_pos hc])
  · exact .dataSent hm hc hn
  · exact .callEnds hm (by rwa [if_neg hc])
  · exact dataBytePass_outcome hm hc hn

theorem drainPass_outcome {n : Nat} {s : State} (hm : s.status.mstate = .drain) : PassOutcome n s (drainPass n s) := by
  obtain ⟨hz, h⟩ | ⟨t, hz, hp, h⟩ | ⟨s1, hz, hp, h⟩ := drainPass_cases n s <;> rw [h]
  · exact .drained hm hz
  all_goals obtain ⟨hready, hp'⟩ | ⟨hbusy, hp'⟩ := pollOrBusy_cases s <;> cases hp'.symm.trans hp
  · exact .busy hbusy
  · exact .flushed hm hz hready

theorem finishPass_outcome {n : Nat} {s : State} (hm : s.status.mstate = .finish) : PassOutcome n s (finishPass s) := by
  obtain ⟨t, hp, h⟩ | ⟨s1, hp, h⟩ := finishPass_cases s <;> rw [h]
  all_goals obtain ⟨hready, hp'⟩ | ⟨hbusy, hp'⟩ := pollOrBusy_cases s <;> cases hp'.symm.trans hp
  · exact .busy hbusy
  · rw [sinkPoll_status]
    exact .ended hm hready

theorem sequencerPass_outcome (n : Nat) (s : State) : PassOutcome n s (sequencerPass n s) := by
  unfold sequencerPass
  cases hm : s.status.mstate with
  | leader | sync0 | sync1 | trailer | flushTone => exact unitPass_outcome (by simp only [unitAt, hm]) (by simp [hm])
  | data => exact dataPass_outcome hm
  | drain => exact drainPass_outcome hm
  | finish => exact finishPass_outcome hm
  | idle => exact .idle hm

/-! ## The loop -/

/-- The loop's induction over the outcomes of its passes. -/
theorem runSequencer_induction {P : Nat → State → Prop} {Q : State → Prop} {s t : State}
    (again : ∀ n u n' u', P n u → PassOutcome n u (.again n' u') → P n' u')
    (done : ∀ n u t, P n u → PassOutcome n u (.done t) → Q t)
    (h : P 0 s) (hr : runSequencer s = .next t) : Q t :=
  sequencerLoop_induction (fun n u n' u' hu hp => again n u n' u' hu (hp ▸ sequencerPass_outcome n u))
    (fun n u t hu hp => done n u t hu (hp ▸ sequencerPass_outcome n u)) h hr

/-- How many places of the sequencer are still to be visited (R171). -/
def placesLeft : MState → Nat
  | .leader => 8
  | .sync0 => 7
  | .sync1 => 6
  | .data => 5
  | .trailer => 4
  | .flushTone => 3
  | .drain => 2
  | .finish => 1
  | .idle => 0

/-- A unit leads to a later place, or is a data byte. -/
theorem unitAt_progress {s : State} {u : SessionUnit} (h : unitAt s = some u) :
    u.next ≠ .idle ∧ ((u.bytes = 0 ∧ s.status.mstate ≠ .data ∧ placesLeft u.next < placesLeft s.status.mstate) ∨
      (u.bytes = 1 ∧ s.status.mstate = .data ∧ u.next = .data)) := by
  obtain ⟨hm, rfl⟩ | ⟨hm, rfl⟩ | ⟨hm, rfl⟩ | ⟨hm, -, rfl⟩ | ⟨hm, rfl⟩ | ⟨hm, rfl⟩ := unitAt_cases h
  case inr.inr.inr.inr.inl => cases s.status.cancelling <;> simp [hm, placesLeft]
  all_goals simp [hm, placesLeft]

/-- Every further pass uses up a data byte of the call or moves on to a later place (R172). -/
theorem PassOutcome.progress {n n' : Nat} {s s' : State} (h : PassOutcome n s (.again n' s')) (hn : n ≤ Config.pumpMax) :
    n' ≤ Config.pumpMax ∧ s'.status.mstate ≠ .idle ∧
      Config.pumpMax - n' + placesLeft s'.status.mstate < Config.pumpMax - n + placesLeft s.status.mstate := by
  cases h with
  | sent unit ready room below_bound =>
    obtain ⟨hne, ⟨hb, -, hlt⟩ | ⟨hb, hm, hnext⟩⟩ := unitAt_progress unit
    · exact ⟨by omega, hne, by simp only [hb, sendUnit, setMState]; omega⟩
    · have := below_bound hm
      refine ⟨by omega, hne, ?_⟩
      simp only [hb, sendUnit, setMState, hnext, hm]
      omega
  | dataSent at_data no_data first => exact ⟨hn, by simp [setMState], by simp [setMState, at_data, placesLeft]⟩
  | drained at_drain empty => exact ⟨hn, by simp [setMState], by simp [setMState, at_drain, placesLeft]⟩
  | flushed at_drain pending ready => exact ⟨hn, by simp [setMState], by simp [setMState, at_drain, placesLeft]⟩

theorem sequencerLoop_ends {passes n : Nat} {s : State} (hn : n ≤ Config.pumpMax) (hm : s.status.mstate ≠ .idle)
    (hlt : Config.pumpMax - n + placesLeft s.status.mstate < passes) : ∃ t, sequencerLoop passes n s = .next t := by
  induction passes generalizing n s with
  | zero => omega
  | succ k ih =>
    have hout := sequencerPass_outcome n s
    cases hp : sequencerPass n s with
    | idle =>
      rw [hp] at hout
      cases hout with
      | idle at_idle => exact absurd at_idle hm
    | done t => exact ⟨t, sequencerLoop_done hp⟩
    | again n' s' =>
      rw [hp] at hout
      obtain ⟨hn', hm', hless⟩ := hout.progress hn
      rw [sequencerLoop_again hp]
      exact ih hn' hm' (by omega)

/-- `RunSequencer` always ends in a session (R172). -/
theorem runSequencer_ends {s : State} (hm : s.status.mstate ≠ .idle) : ∃ t, runSequencer s = .next t :=
  sequencerLoop_ends (Nat.zero_le _) hm (by cases s.status.mstate <;> decide)

/-! ## One command -/

/-- The commands that a session in progress makes fail with EC_BAD_STATE (R122, R145, R176, R184). -/
def refusedInSession (i : Instr) : Prop := i = .fecEncode ∨ i = .escEscape ∨ i = .txStart ∨ ∃ n, i = .tone n

/-- The ways a command can end. -/
inductive CommandOutcome (s : State) : Instr → State → Prop
  | reset : CommandOutcome s .reset (doReset s)
  | refused {i : Instr} (not_reset : i ≠ .reset) (fault : s.status.fault = true) :
      CommandOutcome s i (finishError .faulted s)
  | badState {i : Instr} (clear : s.status.fault = false) (which : refusedInSession i)
      (session : s.status.transmitting = true) : CommandOutcome s i (raiseFault .badState 0 s)
  | invalid {i : Instr} (clear : s.status.fault = false)
      (which : i = .fecSize ∨ i = .fecEncode ∨ i = .escEscape ∨ i = .txStart ∨ i = .txCancel) :
      CommandOutcome s i (finishError .validation s)
  | sized (clear : s.status.fault = false) :
      CommandOutcome s .fecSize (finishWith .ok { s with res0 := BitVec.ofNat 32 (fecSize (dataSize s)) })
  | encoded (clear : s.status.fault = false) (no_session : s.status.transmitting = false) :
      CommandOutcome s .fecEncode (finishWith .ok (encodeSource s))
  | counted (clear : s.status.fault = false) :
      CommandOutcome s .escCount (finishWith .ok { s with res0 := BitVec.ofNat 32 (countReserved (codBytes s)) })
  | escaped (clear : s.status.fault = false) (no_session : s.status.transmitting = false) :
      CommandOutcome s .escEscape (finishWith .ok (escapeCoded s))
  | opened (clear : s.status.fault = false) (no_session : s.status.transmitting = false) (data : s.txbLen ≠ 0) :
      CommandOutcome s .txStart (finishWith .ok (openSession s))
  | toneBusy {n : Nat} (clear : s.status.fault = false) (no_session : s.status.transmitting = false) :
      CommandOutcome s (.tone n) (finishWith .busy (sinkPoll s).2)
  | toneOverflow {n : Nat} (clear : s.status.fault = false) (no_session : s.status.transmitting = false) :
      CommandOutcome s (.tone n)
        (raiseFault .orbOverflow (BitVec.ofNat 32 (s.orbSize.toNat + n)) (sinkPoll s).2)
  | toneSent {n : Nat} (clear : s.status.fault = false) (no_session : s.status.transmitting = false)
      (room : s.orbSize.toNat + n ≤ s.params.orbMax) :
      CommandOutcome s (.tone n) (finishWith .ok (writeUnit (synth s.params s.arg0 n) (sinkPoll s).2))
  | flushEmpty (clear : s.status.fault = false) : CommandOutcome s .orbFlush (finishWith .ok s)
  | flushBusy (clear : s.status.fault = false) : CommandOutcome s .orbFlush (finishWith .busy (sinkPoll s).2)
  | flushed (clear : s.status.fault = false) : CommandOutcome s .orbFlush (finishWith .ok (orbFlush (sinkPoll s).2))
  | noSession (clear : s.status.fault = false) (no_session : s.status.transmitting = false) :
      CommandOutcome s .txPump (raiseFault .noSession 0 s)
  | pumped {t : State} (clear : s.status.fault = false) (session : s.status.transmitting = true)
      (run : runSequencer s = .next t) : CommandOutcome s .txPump t
  | cancelled {t : State} (clear : s.status.fault = false) (session : s.status.transmitting = true)
      (run : runSequencer (beginCancel s) = .next t) : CommandOutcome s .txCancel t

section Bodies

variable {s : State} (hclear : s.status.fault = false)
include hclear

theorem fecSizeBody_outcome : CommandOutcome s .fecSize (fecSizeBody s) := by
  unfold fecSizeBody
  split
  · exact .invalid hclear (.inl rfl)
  · exact .sized hclear

theorem fecEncodeBody_outcome : CommandOutcome s .fecEncode (fecEncodeBody s) := by
  unfold fecEncodeBody
  split_ifs with ht h
  · exact .badState hclear (.inl rfl) ht
  · exact .invalid hclear (.inr (.inl rfl))
  · exact .encoded hclear (Bool.eq_false_iff.mpr ht)

theorem escEscapeBody_outcome : CommandOutcome s .escEscape (escEscapeBody s) := by
  unfold escEscapeBody
  split_ifs with ht h
  · exact .badState hclear (.inr (.inl rfl)) ht
  · exact .invalid hclear (.inr (.inr (.inl rfl)))
  · exact .escaped hclear (Bool.eq_false_iff.mpr ht)

theorem txStartBody_outcome : CommandOutcome s .txStart (txStartBody s) := by
  unfold txStartBody
  split_ifs with ht h
  · exact .badState hclear (.inr (.inr (.inl rfl))) ht
  · exact .invalid hclear (.inr (.inr (.inr (.inl rfl))))
  · exact .opened hclear (Bool.eq_false_iff.mpr ht) h

theorem toneBody_outcome (n : Nat) : CommandOutcome s (.tone n) (toneBody n s) := by
  unfold toneBody
  split_ifs with ht
  · exact .badState hclear (.inr (.inr (.inr ⟨n, rfl⟩))) ht
  · have ht := Bool.eq_false_iff.mpr ht
    obtain ⟨-, hp⟩ | ⟨-, hp, ⟨-, he⟩ | ⟨hroom, he⟩⟩ := poll_emit_cases n (synth s.params s.arg0 n) s
    · simp only [hp]
      exact .toneBusy hclear ht
    · simp only [hp, sinkPoll_params, toneWord, sinkPoll_arg0, he]
      exact .toneOverflow hclear ht
    · simp only [hp, sinkPoll_params, toneWord, sinkPoll_arg0, he]
      exact .toneSent hclear ht hroom

theorem orbFlushBody_outcome : CommandOutcome s .orbFlush (orbFlushBody s) := by
  unfold orbFlushBody
  split
  · exact .flushEmpty hclear
  · obtain ⟨-, hp⟩ | ⟨-, hp⟩ := pollOrBusy_cases s <;> simp only [hp]
    · exact .flushed hclear
    · exact .flushBusy hclear

end Bodies

theorem exec_outcome {i : Instr} {s t : State} (h : exec i s = .next t) : CommandOutcome s i t := by
  by_cases hi : i = .reset
  · subst hi
    cases (exec_reset s).symm.trans h
    exact .reset
  cases hfault : s.status.fault with
  | true =>
    cases (exec_of_fault hi hfault).symm.trans h
    exact .refused hi hfault
  | false =>
    cases i with
    | reset => exact absurd rfl hi
    | fecSize => cases (exec_fecSize_of_clear hfault).symm.trans h; exact fecSizeBody_outcome hfault
    | fecEncode => cases (exec_fecEncode_of_clear hfault).symm.trans h; exact fecEncodeBody_outcome hfault
    | escCount => cases (exec_escCount_of_clear hfault).symm.trans h; exact .counted hfault
    | escEscape => cases (exec_escEscape_of_clear hfault).symm.trans h; exact escEscapeBody_outcome hfault
    | txStart => cases (exec_txStart_of_clear hfault).symm.trans h; exact txStartBody_outcome hfault
    | tone n => cases (exec_tone_of_clear hfault n).symm.trans h; exact toneBody_outcome hfault n
    | orbFlush => cases (exec_orbFlush_of_clear hfault).symm.trans h; exact orbFlushBody_outcome hfault
    | txPump =>
      rw [exec_txPump_of_clear hfault] at h
      split at h
      next ht => exact .pumped hfault ht h
      next ht => cases h; exact .noSession hfault (Bool.eq_false_iff.mpr ht)
    | txCancel =>
      rw [exec_txCancel_of_clear hfault] at h
      split at h
      next ht => exact .cancelled hfault ht h
      next ht => cases h; exact .invalid hfault (.inr (.inr (.inr (.inr rfl))))

/-! ## One step -/

/-- The ways a step can end. -/
inductive StepOutcome (s : State) : State → Prop
  | nothing : StepOutcome s s
  | rst {later : List Input} (event : s.inputs = .rst :: later) : StepOutcome s (powerOnReset (popInput s))
  | answered (r : Response) : StepOutcome s (respond r (popInput s))
  | written {q : Request} {u : State} (write : portWrite q (popInput s) = some u) : StepOutcome s (respond (.ok 0) u)
  | command {w : Word} {later : List Input} {i : Instr} {t : State}
      (event : s.inputs = .request (packRequest (cmdRequest w)) :: later) (word : decode w = .ok i)
      (run : exec i (acceptCmd w (popInput s)) = .next t) : StepOutcome s t
  | illegal {w : Word} {t : State} (run : execIllegal w (acceptCmd w (popInput s)) = .next t) : StepOutcome s t

theorem serveWrite_outcome (q : Request) (s : State) : StepOutcome s (serveWrite q (popInput s)) := by
  unfold serveWrite
  split
  next t h => exact .written h
  next => exact .answered .err

theorem step_outcome {s t : State} (h : step s = .next t) : StepOutcome s t := by
  cases hin : s.inputs with
  | nil =>
    cases (step_of_no_input hin).symm.trans h
    exact .nothing
  | cons x later =>
    cases x with
    | rst =>
      cases (step_of_rst hin).symm.trans h
      exact .rst hin
    | request r =>
      rw [step_of_request hin] at h
      by_cases hr : ∀ q, unpackRequest r = some q → isCmdWrite q = false
      · obtain hs | ⟨q, hs⟩ | ⟨q, hs⟩ := serveRequest_of_no_cmdWrite hr (popInput s) <;> cases hs.symm.trans h
        · exact .answered .err
        · exact serveWrite_outcome q s
        · exact .answered _
      · push Not at hr
        obtain ⟨q, hq, hc⟩ := hr
        rw [Bool.ne_false_iff] at hc
        rw [serveRequest_of_cmdWrite hq hc] at h
        cases hw : decode q.wdata with
        | ok i =>
          rw [executeCmdWrite_of_ok hw] at h
          refine .command (later := later) ?_ hw h
          rw [hin, ← eq_cmdRequest_of_isCmdWrite hc, packRequest_of_unpackRequest hq]
        | error e =>
          rw [executeCmdWrite_of_error hw] at h
          exact .illegal h

/-- An illegal word's command is one `Fault` behind the common check. -/
theorem execIllegal_cases {w : Word} {s t : State} (h : execIllegal w s = .next t) :
    t = finishError .faulted s ∨ (s.status.fault = false ∧ t = raiseFault .illegalCmd w s) := by
  obtain ⟨-, hs⟩ | ⟨hclear, hs⟩ := unlessFaulted_cases s (fun s => .next (raiseFault .illegalCmd w s)) <;>
    cases hs.symm.trans h
  · exact .inl rfl
  · exact .inr ⟨hclear, rfl⟩

end Sys2Proof.Machine

/-! The invariant (10_state.md section 8) is kept by every step. Its items are of three kinds: those of the session, which are about
STATUS, SES_LEN, CURSOR and two lengths (`SessionOk`), those of ORB, and those of the FEC pipeline's buffers; an operation changes
items of one kind, and each kind has one rule that puts a changed part back into the invariant. -/

namespace Sys2Proof.Machine

/-! ## Items that hold of every state (R52, item 7) -/

theorem codeBits_le (c : Code) : (codeBits c).toNat ≤ 5 := by cases c <;> decide

theorem causeBits_le (c : Cause) : (causeBits c).toNat ≤ 9 := by cases c <;> decide

theorem mstateBits_le (m : MState) : (mstateBits m).toNat ≤ 8 := by cases m <;> decide

/-- The reserved bits are 11 and 31:20. -/
theorem reservedBit_cases : ∀ i < 32, (0xFFF00800 : Word).getLsbD i = true → i = 11 ∨ 20 ≤ i := by decide

theorem statusWord_and_reserved (st : Status) : statusWord st &&& 0xFFF00800 = 0 := by
  refine BitVec.eq_of_getLsbD_eq (fun i hi => ?_)
  rw [BitVec.getLsbD_and, show (0 : Word).getLsbD i = false from BitVec.getLsbD_zero, Bool.and_eq_false_iff]
  cases hmask : (0xFFF00800 : Word).getLsbD i with
  | false => exact .inr rfl
  | true =>
    left
    obtain rfl | hge := reservedBit_cases i hi hmask
    · exact statusWord_reserved_low st
    · have hbit := congrArg (BitVec.getLsbD · (i - 20)) (statusWord_reserved_high st)
      simp only [BitVec.getLsbD_extractLsb', Nat.add_sub_cancel' hge, decide_eq_true (show i - 20 < 12 by omega),
        Bool.true_and] at hbit
      exact hbit.trans BitVec.getLsbD_zero

/-! ## The items of the session -/

/-- The items 2 to 6 of R52 that speak of the session, as a predicate on what they speak of. -/
structure SessionOk (st : Status) (sesLen cursor txbLen orbSize : Word) : Prop where
  cursor_le : cursor.toNat ≤ sesLen.toNat
  idle_iff : st.transmitting = false ↔ st.mstate = .idle
  noSession : st.transmitting = false → sesLen = 0 ∧ cursor = 0 ∧ st.cancelling = false
  session : st.transmitting = true → sesLen = txbLen ∧ 1 ≤ sesLen.toNat
  preamble : st.mstate = .leader ∨ st.mstate = .sync0 ∨ st.mstate = .sync1 → cursor = 0
  flushTone : st.mstate = .flushTone → st.cancelling = true
  cancelling_closing : st.cancelling = true → closing st.mstate = true
  finish_drained : st.mstate = .finish → orbSize = 0
  fault_iff : st.fault = true ↔ st.fcause ≠ .none

theorem Inv.sessionOk {s : State} (h : Inv s) : SessionOk s.status s.sesLen s.cursor s.txbLen s.orbSize where
  cursor_le := h.cursor_le
  idle_iff := h.idle_iff
  noSession := h.noSession
  session := h.session
  preamble := h.preamble
  flushTone := h.flushTone
  cancelling_closing := h.cancelling_closing
  finish_drained := h.finish_drained
  fault_iff := h.fault_iff

/-- Another session in the same state. -/
theorem Inv.withSession {s : State} (h : Inv s) {st : Status} {info sesLen cursor : Word}
    (hs : SessionOk st sesLen cursor s.txbLen s.orbSize) :
    Inv { s with status := st, errinfo := info, sesLen := sesLen, cursor := cursor } :=
  { h with
    cursor_le := hs.cursor_le
    sesLen_le := by
      cases ht : st.transmitting with
      | false =>
        obtain ⟨hzero, -⟩ := hs.noSession ht
        simp [hzero]
      | true =>
        obtain ⟨htxb, -⟩ := hs.session ht
        simpa only [htxb] using h.txbLen_le
    idle_iff := hs.idle_iff
    noSession := hs.noSession
    session := hs.session
    preamble := hs.preamble
    flushTone := hs.flushTone
    cancelling_closing := hs.cancelling_closing
    finish_drained := hs.finish_drained
    fault_iff := hs.fault_iff
    statusReserved := statusWord_and_reserved st
    codeLegal := codeBits_le st.code
    causeLegal := causeBits_le st.cause
    mstateLegal := mstateBits_le st.mstate }

section SessionSteps

variable {s : State} (h : Inv s)
include h

theorem Inv.after_finish (code : Code) (cause : Cause) (info : Word) : Inv (finish code cause info s) :=
  h.withSession { h.sessionOk with }

theorem Inv.after_finishWith (code : Code) : Inv (finishWith code s) := h.after_finish code .none 0

theorem Inv.after_finishError (cause : Cause) : Inv (finishError cause s) := h.after_finish .error cause 0

/-- A fatal cause is a cause, so FAULT and FCAUSE are set together (R233). -/
theorem Inv.after_raiseFault {cause : Cause} (hc : cause ≠ .none) (info : Word) : Inv (raiseFault cause info s) := by
  have hok : SessionOk { s.status with fault := true, fcause := if s.status.fault then s.status.fcause else cause }
      s.sesLen s.cursor s.txbLen s.orbSize :=
    { h.sessionOk with
      fault_iff := by
        have hfault := h.fault_iff
        cases hf : s.status.fault with
        | false => simpa using hc
        | true => simpa [hf] using hfault }
  exact (h.withSession (info := s.errinfo) hok).after_finish .error cause info

theorem Inv.withRes0 (v : Word) : Inv { s with res0 := v } := { h with }

theorem Inv.after_sinkPoll : Inv (sinkPoll s).2 := by
  rw [sinkPoll_snd]
  exact { h with }

theorem Inv.transmitting_of_ne_idle (hm : s.status.mstate ≠ .idle) : s.status.transmitting = true :=
  Bool.not_eq_false _ ▸ mt h.idle_iff.mp hm

/-- MSTATE moves on to a place of the session. -/
theorem Inv.after_setMState {m : MState} (ht : s.status.transmitting = true) (hidle : m ≠ .idle)
    (hpre : m = .leader ∨ m = .sync0 ∨ m = .sync1 → s.cursor = 0) (hflush : m = .flushTone → s.status.cancelling = true)
    (hclosing : s.status.cancelling = true → closing m = true) (hfinish : m = .finish → s.orbSize = 0) :
    Inv (setMState m s) :=
  h.withSession { h.sessionOk with
    idle_iff := by simp [ht, hidle], preamble := hpre, flushTone := hflush, cancelling_closing := hclosing
    finish_drained := hfinish }

/-- A data byte was taken. -/
theorem Inv.after_nextByte (hm : s.status.mstate = .data) (hc : s.cursor ≠ s.sesLen) :
    Inv { s with cursor := s.cursor + 1 } :=
  h.withSession { h.sessionOk with
    cursor_le := by
      have hle := h.cursor_le
      have hne : s.cursor.toNat ≠ s.sesLen.toNat := fun he => hc (BitVec.eq_of_toNat_eq he)
      have hlt := s.sesLen.isLt
      rw [BitVec.toNat_add, show (1 : Word).toNat = 1 from rfl]
      omega
    noSession := by simp [h.transmitting_of_ne_idle (by simp [hm])]
    preamble := by simp [hm] }

theorem Inv.after_endSession : Inv (endSession s) :=
  h.withSession { h.sessionOk with
    cursor_le := le_rfl, idle_iff := by simp, noSession := by simp, session := by simp, preamble := by simp
    flushTone := by simp, cancelling_closing := by simp, finish_drained := by simp }

theorem Inv.after_openSession (hne : s.txbLen ≠ 0) : Inv (openSession s) :=
  h.withSession { h.sessionOk with
    cursor_le := Nat.zero_le _, idle_iff := by simp, noSession := by simp
    session := fun _ => ⟨rfl, Nat.pos_of_ne_zero fun hz => hne (BitVec.eq_of_toNat_eq hz)⟩
    preamble := by simp, flushTone := by simp, cancelling_closing := by simp, finish_drained := by simp }

/-- A first cancellation goes to the trailer, or stays in the closing sequence (R182). -/
theorem Inv.after_beginCancel (ht : s.status.transmitting = true) : Inv (beginCancel s) := by
  unfold beginCancel
  split
  · exact h
  · refine h.withSession { h.sessionOk with
      idle_iff := ?_, noSession := ?_, preamble := ?_, flushTone := ?_, cancelling_closing := ?_, finish_drained := ?_ }
    all_goals
      have hidle := h.idle_iff
      have hfinish := h.finish_drained
      cases hm : s.status.mstate <;> simp_all [beforeTrailer, closing]

end SessionSteps

/-! ## The items of ORB -/

/-- Other pending samples in the same state. -/
theorem Inv.withOrb {s : State} (h : Inv s) {orb : Memory} {size phase : Word} {log : List (List Byte)} (hwf : orb.wf)
    (hin : ∀ c ∈ orb, c.1 < s.params.orbMax) (hsize : size.toNat < s.params.orbMin)
    (hfinish : s.status.mstate = .finish → size = 0) :
    Inv { s with orb := orb, orbSize := size, phase := phase, sinkLog := log } :=
  { h with orbSize_lt := hsize, finish_drained := hfinish, orb_wf := hwf, orb_in := hin }

theorem Inv.orbMin_le {s : State} (h : Inv s) : s.params.orbMin ≤ s.params.orbMax := by
  have := h.params.orbMax_ge
  have := h.params.orbMin_pos
  have : 1 ≤ maxWrite s.params := by
    have := h.params.nsBit_pos
    simp only [maxWrite, frameNs, Config.startBits, Config.dataBits, Config.stopBits]
    omega
  omega

/-- ORB_SIZE after a unit: the samples were appended, and at the threshold handed off (R163). -/
theorem writeUnit_orbSize {gen : Word → List Byte × Word} {s : State}
    (hfits : s.orbSize.toNat + (gen s.phase).1.length ≤ 0xFFFFFFFF) :
    (writeUnit gen s).orbSize.toNat =
      if s.params.orbMin ≤ s.orbSize.toNat + (gen s.phase).1.length then 0
      else s.orbSize.toNat + (gen s.phase).1.length := by
  have hsize : (orbWrite (gen s.phase).1 { s with phase := (gen s.phase).2 }).orbSize.toNat =
      s.orbSize.toNat + (gen s.phase).1.length := toNat_word hfits
  have hparams : (orbWrite (gen s.phase).1 { s with phase := (gen s.phase).2 }).params = s.params := rfl
  rw [writeUnit]
  generalize orbWrite (gen s.phase).1 { s with phase := (gen s.phase).2 } = w at hsize hparams
  rw [← hsize, ← hparams]
  split
  next hge => rw [autoHandoff_of_ge hge]; rfl
  next hlt => rw [autoHandoff_of_lt (Nat.lt_of_not_le hlt)]

/-- A unit that fits keeps the invariant, where something may be pending. -/
theorem Inv.after_writeUnit {s : State} (h : Inv s) {gen : Word → List Byte × Word}
    (hroom : s.orbSize.toNat + (gen s.phase).1.length ≤ s.params.orbMax) (hm : s.status.mstate ≠ .finish) :
    Inv (writeUnit gen s) := by
  have hmax := h.params.orbMax_lt
  have hpos := h.params.orbMin_pos
  rw [writeUnit_frame]
  refine h.withOrb (memWrite_wf h.orb_wf _ _) (memWrite_bound h.orb_in hroom) ?_ (fun hf => absurd hf hm)
  rw [writeUnit_orbSize (by omega)]
  split <;> omega

theorem Inv.after_orbFlush {s : State} (h : Inv s) : Inv (orbFlush s) := by
  have hmin := h.orbMin_le
  have hmax := h.params.orbMax_lt
  have hin : ∀ c ∈ (orbFlush s).orb, c.1 < s.params.orbMax := by
    rw [orbFlush_orb, padToThreshold_of_lt h.orbSize_lt]
    exact memWrite_bound h.orb_in ((orbSize_add_padding_length h.orbSize_lt).trans_le hmin)
  have hwf : (orbFlush s).orb.wf := by
    rw [orbFlush_orb, padToThreshold_of_lt h.orbSize_lt]
    exact memWrite_wf h.orb_wf _ _
  rw [orbFlush_of_lt h.orbSize_lt h.orb_wf (by omega)]
  exact h.withOrb (phase := s.phase) hwf hin h.params.orbMin_pos (fun _ => rfl)

/-! ## The units of a session under the invariant -/

theorem unitAt_gen_length {s : State} {u : SessionUnit} (h : unitAt s = some u) (phase : Word) :
    (u.gen phase).1.length = u.len := by
  have hframe (cfg : Word) (b : Byte) (msb : Bool) : (frameSamples s.params cfg b msb phase).1.length = frameNs s.params := by
    rw [frameSamples, synthBits_length, frameBits_length]
    rfl
  obtain ⟨-, rfl⟩ | ⟨-, rfl⟩ | ⟨-, rfl⟩ | ⟨-, -, rfl⟩ | ⟨-, rfl⟩ | ⟨-, rfl⟩ := unitAt_cases h
  · exact synth_length ..
  · exact hframe ..
  · exact hframe ..
  · exact hframe ..
  · exact synth_length ..
  · exact synth_length ..

theorem unitAt_len_le {s : State} {u : SessionUnit} (h : unitAt s = some u) : u.len ≤ maxWrite s.params := by
  obtain ⟨-, rfl⟩ | ⟨-, rfl⟩ | ⟨-, rfl⟩ | ⟨-, -, rfl⟩ | ⟨-, rfl⟩ | ⟨-, rfl⟩ := unitAt_cases h <;>
    simp only [maxWrite] <;> omega

/-- No unit of a session overflows ORB (R10). -/
theorem Inv.unit_room {s : State} (h : Inv s) {u : SessionUnit} (hu : unitAt s = some u) :
    s.orbSize.toNat + u.len ≤ s.params.orbMax := by
  have := unitAt_len_le hu
  have := h.params.orbMax_ge
  have := h.orbSize_lt
  omega

/-- No byte of a session is the sync value: TXB holds an escaped stream (R143 (b), R179). -/
theorem Inv.sessionByte_ne_sync {s : State} (h : Inv s) (hm : s.status.mstate = .data) (hc : s.cursor ≠ s.sesLen) :
    sessionByte s ≠ Config.syncByte := by
  obtain ⟨htxb, -⟩ := h.session (h.transmitting_of_ne_idle (by simp [hm]))
  have hlt : s.cursor.toNat < s.txbLen.toNat := by
    have hle := h.cursor_le
    have hne : s.cursor.toNat ≠ s.sesLen.toNat := fun he => hc (BitVec.eq_of_toNat_eq he)
    rw [htxb] at hle hne
    omega
  obtain ⟨b, hb, hne⟩ := h.txb_clean _ hlt
  have hread : sessionByte s = b := by
    rw [sessionByte, byteAt, show memOf .txb s = s.txb from rfl, hb, heldByte_some]
    rfl
  rwa [hread]

/-- A unit sent keeps the invariant. -/
theorem Inv.after_sendUnit {s : State} (h : Inv s) {u : SessionUnit} (hu : unitAt s = some u) : Inv (sendUnit u (sinkPoll s).2) := by
  have hm : s.status.mstate ≠ .finish := by
    intro hm
    simp [unitAt, hm] at hu
  have ht : s.status.transmitting = true := h.transmitting_of_ne_idle fun hm => by simp [unitAt, hm] at hu
  have hwrite : Inv (writeUnit u.gen (sinkPoll s).2) := by
    refine h.after_sinkPoll.after_writeUnit ?_ (by rwa [sinkPoll_status])
    rw [unitAt_gen_length hu, sinkPoll_orbSize, sinkPoll_params]
    exact h.unit_room hu
  have hpre := h.preamble
  have hcancel := h.cancelling_closing
  obtain ⟨hm, rfl⟩ | ⟨hm, rfl⟩ | ⟨hm, rfl⟩ | ⟨hm, hc, rfl⟩ | ⟨hm, rfl⟩ | ⟨hm, rfl⟩ := unitAt_cases hu
  case inr.inr.inr.inl =>
    rw [sendUnit_of_data _ (by rw [sinkPoll_status, hm])]
    refine hwrite.after_nextByte (by simp [hm]) ?_
    rw [writeUnit_frame]
    simpa using hc
  all_goals
    rw [sendUnit_of_no_bytes]
    refine hwrite.after_setMState (by simp [ht]) ?_ ?_ ?_ ?_ ?_
    all_goals cases hcc : s.status.cancelling <;> simp_all [closing]

/-! ## The sequencer -/

theorem Inv.pass_again {n n' : Nat} {s s' : State} (h : Inv s) (hp : PassOutcome n s (.again n' s')) : Inv s' := by
  cases hp with
  | sent unit ready room below_bound => exact h.after_sendUnit unit
  | dataSent at_data no_data first =>
    exact h.after_setMState (h.transmitting_of_ne_idle (by simp [at_data])) (by decide) (by simp) (by simp) (by simp [closing])
      (by simp)
  | drained at_drain empty =>
    exact h.after_setMState (h.transmitting_of_ne_idle (by simp [at_drain])) (by decide) (by simp) (by simp) (by simp [closing])
      (fun _ => empty)
  | flushed at_drain pending ready =>
    exact h.after_sinkPoll.after_orbFlush.after_setMState (by simpa using h.transmitting_of_ne_idle (by simp [at_drain])) (by decide)
      (by simp) (by simp) (by simp [closing]) (fun _ => rfl)

theorem Inv.pass_done {n : Nat} {s t : State} (h : Inv s) (hp : PassOutcome n s (.done t)) : Inv t := by
  cases hp with
  | busy not_ready => exact h.after_sinkPoll.after_finishWith .busy
  | unescaped at_data data_left ready sync => exact absurd sync (h.sessionByte_ne_sync at_data data_left)
  | overflow unit ready no_room => exact absurd (h.unit_room unit) (Nat.not_le.mpr no_room)
  | callEnds at_data bound => exact h.after_finishWith .inProgress
  | ended at_finish ready => exact h.after_sinkPoll.after_endSession.after_finishWith _

theorem Inv.after_runSequencer {s t : State} (h : Inv s) (hr : runSequencer s = .next t) : Inv t :=
  runSequencer_induction (P := fun _ u => Inv u) (fun _ _ _ _ => Inv.pass_again) (fun _ _ _ => Inv.pass_done) h hr

/-! ## The FEC pipeline -/

theorem Inv.chunks_le {s : State} (h : Inv s) : chunkCount (srcLength s) * 255 ≤ s.params.codMax := by
  have hlen : s.srcLen.toNat ≤ s.params.srcMax := h.srcLen_le
  rw [h.params.codMax_eq]
  exact Nat.mul_le_mul_right 255 (Nat.div_le_div_right (Nat.add_le_add_right hlen 222))

theorem Inv.codMax_lt {s : State} (h : Inv s) : 2 * s.params.codMax < 2 ^ 24 := h.params.txbMax_eq ▸ h.params.txbMax_lt

theorem Inv.after_encodeSource {s : State} (h : Inv s) : Inv (encodeSource s) := by
  have hle := h.chunks_le
  have hmax := h.codMax_lt
  have hlen : (encodeSource s).codLen.toNat = 255 * chunkCount (srcLength s) :=
    toNat_word (n := 255 * chunkCount (srcLength s)) (by omega)
  exact { h with
    codLen_le := by rw [hlen, Nat.mul_comm]; exact hle
    codLen_mod := by rw [hlen]; exact Nat.mul_mod_right 255 _
    cod_wf := memWrite_wf h.cod_wf _ _
    cod_in := memWrite_bound h.cod_in (by rw [Nat.zero_add, codewords_flatten_length]; exact hle) }

theorem Inv.after_escapeCoded {s : State} (h : Inv s) (ht : s.status.transmitting = false) : Inv (escapeCoded s) := by
  have hmax := h.codMax_lt
  have hcod := h.codLen_le
  have hout : (escape (codBytes s)).length ≤ s.params.txbMax := by
    have := escape_length_le (codBytes s)
    rw [codBytes_length] at this
    rw [h.params.txbMax_eq]
    omega
  have hlen : (escapeCoded s).txbLen.toNat = (escape (codBytes s)).length :=
    toNat_word (by have := h.params.txbMax_lt; omega)
  exact { h with
    txbLen_le := by rw [hlen]; exact hout
    session := fun htrue => absurd (ht.symm.trans htrue) (by decide)
    txb_wf := memWrite_wf h.txb_wf _ _
    txb_in := memWrite_bound h.txb_in (by rw [Nat.zero_add]; exact hout)
    txb_clean := by
      intro a ha
      rw [hlen] at ha
      have hread := memAt_memWrite_inside s.txb 0 a (escape (codBytes s)) ha
      rw [Nat.zero_add] at hread
      exact ⟨_, hread, fun hsync => syncByte_not_mem_escape (codBytes s) (hsync ▸ List.getElem_mem ha)⟩ }

/-! ## Resets -/

theorem cfgLegal_cfgReset (p : Params) : cfgLegal (cfgReset p) = true := by
  unfold cfgReset
  split <;> decide

/-- The session's items after a reset. -/
theorem SessionOk.reset (txbLen : Word) : SessionOk Status.reset 0 0 txbLen 0 where
  cursor_le := le_rfl
  idle_iff := by decide
  noSession := fun _ => ⟨rfl, rfl, rfl⟩
  session := fun ht => absurd ht (by decide)
  preamble := fun _ => rfl
  flushTone := by decide
  cancelling_closing := by decide
  finish_drained := fun _ => rfl
  fault_iff := by decide

theorem Inv.after_doReset {s : State} (h : Inv s) : Inv (doReset s) := by
  have hcleared : Inv { s with
      cfg := cfgReset s.params, arg0 := 0, res0 := 0, srcLen := 0, codLen := 0, orbSize := 0, phase := 0
      srcStale := s.src.map (fun c => c.1) } :=
    { h with
      orbSize_lt := h.params.orbMin_pos, codLen_le := Nat.zero_le _, codLen_mod := rfl, srcLen_le := Nat.zero_le _
      finish_drained := fun _ => rfl, cfgReserved := cfgLegal_cfgReset s.params
      srcStale_wf := List.pairwise_map.mpr h.src_wf
      srcStale_in := by
        intro a ha
        obtain ⟨c, hc, rfl⟩ := List.mem_map.mp ha
        exact h.src_in c hc }
  have hsession : Inv _ := hcleared.withSession (info := 0) (SessionOk.reset s.txbLen)
  exact { hsession with
    session := fun ht => (nomatch ht)
    txbLen_le := Nat.zero_le _
    txb_clean := fun a ha => absurd ha (Nat.not_lt_zero a) }

theorem Inv.after_powerOnReset {s : State} (h : Inv s) : Inv (powerOnReset s) :=
  { h.after_doReset with
    src_wf := .nil, cod_wf := .nil, txb_wf := .nil, orb_wf := .nil, srcStale_wf := .nil
    srcStale_in := by intro a ha; cases ha
    src_in := by intro c hc; cases hc
    cod_in := by intro c hc; cases hc
    txb_in := by intro c hc; cases hc
    orb_in := by intro c hc; cases hc
    txb_clean := fun a ha => absurd ha (Nat.not_lt_zero a) }

/-- The default configuration keeps the constraints of R10. -/
theorem validParams_default : ValidParams Params.default := by constructor <;> decide +kernel

/-- Settles O18: the session's items are those after a reset, and the memories list nothing. -/
theorem resetStateHasTheInvariant : Obligations.ResetStateHasTheInvariant := by
  have hs := SessionOk.reset 0
  exact {
    params := validParams_default
    orbSize_lt := by decide, cursor_le := hs.cursor_le, sesLen_le := Nat.zero_le _, codLen_le := Nat.zero_le _
    codLen_mod := rfl, txbLen_le := Nat.zero_le _, srcLen_le := Nat.zero_le _
    idle_iff := hs.idle_iff, noSession := hs.noSession, session := hs.session, preamble := hs.preamble
    flushTone := hs.flushTone, cancelling_closing := hs.cancelling_closing, finish_drained := hs.finish_drained
    fault_iff := hs.fault_iff
    statusReserved := statusWord_and_reserved _, codeLegal := codeBits_le _, causeLegal := causeBits_le _
    mstateLegal := mstateBits_le _, cfgReserved := by decide
    src_wf := .nil, cod_wf := .nil, txb_wf := .nil, orb_wf := .nil, srcStale_wf := .nil
    srcStale_in := by intro a ha; cases ha
    src_in := by intro c hc; cases hc
    cod_in := by intro c hc; cases hc
    txb_in := by intro c hc; cases hc
    orb_in := by intro c hc; cases hc
    txb_clean := fun a ha => absurd ha (Nat.not_lt_zero a) }

/-! ## Commands and steps -/

theorem Inv.after_exec {i : Instr} {s t : State} (h : Inv s) (he : exec i s = .next t) : Inv t := by
  cases exec_outcome he with
  | reset => exact h.after_doReset
  | refused not_reset fault => exact h.after_finishError .faulted
  | badState clear which session => exact h.after_raiseFault (by decide) 0
  | invalid clear which => exact h.after_finishError .validation
  | sized clear => exact (h.withRes0 _).after_finishWith .ok
  | encoded clear no_session => exact h.after_encodeSource.after_finishWith .ok
  | counted clear => exact (h.withRes0 _).after_finishWith .ok
  | escaped clear no_session => exact (h.after_escapeCoded no_session).after_finishWith .ok
  | opened clear no_session data => exact (h.after_openSession data).after_finishWith .ok
  | toneBusy clear no_session => exact h.after_sinkPoll.after_finishWith .busy
  | toneOverflow clear no_session => exact h.after_sinkPoll.after_raiseFault (by decide) _
  | toneSent clear no_session room =>
    refine Inv.after_finishWith (h.after_sinkPoll.after_writeUnit ?_ ?_) .ok
    · rw [synth_length, sinkPoll_orbSize, sinkPoll_params]
      exact room
    · rw [sinkPoll_status, h.idle_iff.mp no_session]
      decide
  | flushEmpty clear => exact h.after_finishWith .ok
  | flushBusy clear => exact h.after_sinkPoll.after_finishWith .busy
  | flushed clear => exact h.after_sinkPoll.after_orbFlush.after_finishWith .ok
  | noSession clear no_session => exact h.after_raiseFault (by decide) 0
  | pumped clear session run => exact h.after_runSequencer run
  | cancelled clear session run => exact (h.after_beginCancel session).after_runSequencer run

theorem Inv.after_popInput {s : State} (h : Inv s) : Inv (popInput s) := { h with }

theorem Inv.after_respond {s : State} (h : Inv s) (r : Response) : Inv (respond r s) := { h with }

theorem Inv.after_acceptCmd {s : State} (h : Inv s) (w : Word) : Inv (acceptCmd w s) := { h with }

/-- A register write checks its value (R66). -/
theorem writeReg_checked {off : BitVec 24} {v : Word} {s t : State} (h : writeReg off v s = some t) :
    t = { s with arg0 := v } ∨ (cfgLegal v = true ∧ t = { s with cfg := v }) ∨
      (v.toNat ≤ s.params.srcMax ∧ t = { s with srcLen := v }) := by
  unfold writeReg at h
  simp only [ite_eq_iff, Option.some.injEq, reduceCtorEq, and_false, or_false] at h
  obtain ⟨-, rfl⟩ | ⟨-, ⟨-, ⟨-, hv⟩, rfl⟩ | ⟨-, -, ⟨-, hv⟩, rfl⟩⟩ := h
  · exact .inl rfl
  · exact .inr (.inl ⟨hv, rfl⟩)
  · exact .inr (.inr ⟨hv, rfl⟩)

theorem Inv.after_writeReg {off : BitVec 24} {v : Word} {s t : State} (h : Inv s) (hw : writeReg off v s = some t) : Inv t := by
  obtain rfl | ⟨hv, rfl⟩ | ⟨hv, rfl⟩ := writeReg_checked hw
  · exact { h with }
  · exact { h with cfgReserved := hv }
  · exact { h with srcLen_le := hv }

/-- A byte stored to SRC lies in the space and is no longer stale. -/
theorem Inv.after_storeSrc {s : State} (h : Inv s) {a : Nat} (ha : a < s.params.srcMax) (b : Byte) : Inv (storeBytes .src a [b] s) :=
  { h with
    src_wf := memWrite_wf h.src_wf _ _
    src_in := memWrite_bound h.src_in (show a + 1 ≤ s.params.srcMax from ha)
    srcStale_wf := h.srcStale_wf.filter _
    srcStale_in := fun x hx => h.srcStale_in x (List.mem_filter.mp hx).1 }

theorem Inv.after_portWrite {q : Request} {s t : State} (h : Inv s) (hw : portWrite q s = some t) : Inv t := by
  unfold portWrite at hw
  split at hw
  case h_2 => exact h.after_writeReg hw
  case h_3 =>
    simp only [Option.ite_none_right_eq_some, Option.some.injEq] at hw
    obtain ⟨⟨ha, -⟩, rfl⟩ := hw
    exact h.after_storeSrc ha _
  all_goals cases hw

/-- Settles O19: each way a step can end keeps the invariant. -/
theorem stepKeepsTheInvariant : Obligations.StepKeepsTheInvariant := by
  intro s t h hs
  cases step_outcome hs with
  | nothing => exact h
  | rst event => exact h.after_popInput.after_powerOnReset
  | answered r => exact h.after_popInput.after_respond r
  | written write => exact (h.after_popInput.after_portWrite write).after_respond _
  | command event word run => exact (h.after_popInput.after_acceptCmd _).after_exec run
  | illegal run =>
    obtain rfl | ⟨-, rfl⟩ := execIllegal_cases run
    · exact (h.after_popInput.after_acceptCmd _).after_finishError .faulted
    · exact (h.after_popInput.after_acceptCmd _).after_raiseFault (by decide) _

/-! ## No step stops -/

/-- A command in a state where a session has a place in the sequencer always ends. -/
theorem exec_ends (i : Instr) {s : State} (h : s.status.transmitting = true → s.status.mstate ≠ .idle) :
    ∃ t, exec i s = .next t := by
  by_cases hi : i = .reset
  · exact ⟨_, hi ▸ exec_reset s⟩
  cases hfault : s.status.fault with
  | true => exact ⟨_, exec_of_fault hi hfault⟩
  | false =>
    cases i with
    | reset => exact absurd rfl hi
    | txPump =>
      rw [exec_txPump_of_clear hfault]
      split
      next ht => exact runSequencer_ends (h ht)
      next => exact ⟨_, rfl⟩
    | txCancel =>
      rw [exec_txCancel_of_clear hfault]
      split
      next ht =>
        refine runSequencer_ends ?_
        have hm := h ht
        unfold beginCancel
        split
        · exact hm
        · cases hm' : s.status.mstate <;> simp_all [beforeTrailer]
      next => exact ⟨_, rfl⟩
    | fecSize => exact ⟨_, exec_fecSize_of_clear hfault⟩
    | fecEncode => exact ⟨_, exec_fecEncode_of_clear hfault⟩
    | escCount => exact ⟨_, exec_escCount_of_clear hfault⟩
    | escEscape => exact ⟨_, exec_escEscape_of_clear hfault⟩
    | txStart => exact ⟨_, exec_txStart_of_clear hfault⟩
    | tone n => exact ⟨_, exec_tone_of_clear hfault n⟩
    | orbFlush => exact ⟨_, exec_orbFlush_of_clear hfault⟩

theorem execIllegal_ends (w : Word) (s : State) : ∃ t, execIllegal w s = .next t := by
  obtain ⟨-, h⟩ | ⟨-, h⟩ := unlessFaulted_cases s (fun s => .next (raiseFault .illegalCmd w s)) <;> exact ⟨_, h⟩

theorem serveRequest_ends (r : BitVec 64) {s : State} (h : Inv s) : ∃ t, serveRequest r s = .next t := by
  by_cases hr : ∀ q, unpackRequest r = some q → isCmdWrite q = false
  · obtain hs | ⟨q, hs⟩ | ⟨q, hs⟩ := serveRequest_of_no_cmdWrite hr s <;> exact ⟨_, hs⟩
  · push Not at hr
    obtain ⟨q, hq, hc⟩ := hr
    rw [serveRequest_of_cmdWrite hq (Bool.ne_false_iff.mp hc)]
    cases hw : decode q.wdata with
    | ok i =>
      rw [executeCmdWrite_of_ok hw]
      exact exec_ends i fun ht hm => absurd (ht.symm.trans (h.idle_iff.mpr hm)) (by decide)
    | error e =>
      rw [executeCmdWrite_of_error hw]
      exact execIllegal_ends _ _

/-- Settles O20: only a pump or a cancel could stop, and with the invariant a session has a place in the sequencer. -/
theorem stepNeverStops : Obligations.StepNeverStops := by
  intro s h
  cases hin : s.inputs with
  | nil => exact ⟨_, step_of_no_input hin⟩
  | cons x later =>
    cases x with
    | rst => exact ⟨_, step_of_rst hin⟩
    | request r =>
      rw [step_of_request hin]
      exact serveRequest_ends r h.after_popInput

end Sys2Proof.Machine

/-! Rules of the whole machine, each by cases over the outcomes of a step, a command and a pass: what a pump or a cancel may change
and that it ends (R172, R177, R182), what stays fixed in a session (R79), who writes RES0 (R29), how a command reports (R221, R231,
R233), and the arrows of the sequencer (R171). -/

namespace Sys2Proof.Machine

/-! ## What a pass changes -/

theorem pumpFrame_refl (s : State) : pumpFrame s s := rfl

theorem pumpFrame_trans {s t u : State} (h1 : pumpFrame s t) (h2 : pumpFrame t u) : pumpFrame s u := by
  cases s; cases t; cases u
  simp only [pumpFrame, State.mk.injEq] at h1 h2 ⊢
  simp_all

/-- `OrbFlush` writes ORB, ORB_SIZE and the sink's log only. -/
theorem orbFlush_frame (s : State) :
    orbFlush s = { s with orb := (orbFlush s).orb, orbSize := 0, sinkLog := (orbFlush s).sinkLog } := by
  unfold orbFlush padToThreshold
  split <;> rfl

theorem sendUnit_frame (u : SessionUnit) (s : State) :
    sendUnit u s = { s with
      status := { s.status with mstate := u.next }, cursor := s.cursor + BitVec.ofNat 32 u.bytes
      orb := memWrite s.orb s.orbSize.toNat (u.gen s.phase).1, orbSize := (writeUnit u.gen s).orbSize
      phase := (u.gen s.phase).2, sinkLog := (writeUnit u.gen s).sinkLog } := by
  rw [sendUnit, writeUnit_frame]
  rfl

theorem pumpFrame_sinkPoll (s : State) : pumpFrame s (sinkPoll s).2 := by
  rw [sinkPoll_snd]
  rfl

theorem pumpFrame_sendUnit (u : SessionUnit) (s : State) : pumpFrame s (sendUnit u s) := by
  rw [sendUnit_frame]
  rfl

theorem pumpFrame_orbFlush (s : State) : pumpFrame s (orbFlush s) := by
  rw [orbFlush_frame]
  rfl

theorem pumpFrame_beginCancel (s : State) : pumpFrame s (beginCancel s) := by
  unfold beginCancel
  split <;> rfl

theorem PassOutcome.again_frame {n n' : Nat} {s s' : State} (h : PassOutcome n s (.again n' s')) : pumpFrame s s' := by
  cases h with
  | sent unit ready room below_bound => exact pumpFrame_trans (pumpFrame_sinkPoll s) (pumpFrame_sendUnit _ _)
  | dataSent at_data no_data first => rfl
  | drained at_drain empty => rfl
  | flushed at_drain pending ready =>
    exact pumpFrame_trans (pumpFrame_sinkPoll s) (pumpFrame_trans (pumpFrame_orbFlush _) rfl)

theorem PassOutcome.done_frame {n : Nat} {s t : State} (h : PassOutcome n s (.done t)) : pumpFrame s t := by
  cases h with
  | callEnds at_data bound => rfl
  | _ => exact pumpFrame_trans (pumpFrame_sinkPoll s) rfl

theorem runSequencer_frame {s t : State} (h : runSequencer s = .next t) : pumpFrame s t :=
  runSequencer_induction (P := fun _ u => pumpFrame s u) (fun _ _ _ _ hu hp => pumpFrame_trans hu hp.again_frame)
    (fun _ _ _ hu hp => pumpFrame_trans hu hp.done_frame) (pumpFrame_refl s) h

/-- No pass but the last changes CANCELLING. -/
theorem PassOutcome.again_cancelling {n n' : Nat} {s s' : State} (h : PassOutcome n s (.again n' s')) :
    s'.status.cancelling = s.status.cancelling := by
  cases h with
  | sent unit ready room below_bound => rw [sendUnit_frame, sinkPoll_status]
  | dataSent at_data no_data first => rfl
  | drained at_drain empty => rfl
  | flushed at_drain pending ready => simp

/-! ## ORB's bytes -/

/-- In ORB a unit sent leaves what a store of its samples at ORB_SIZE leaves. -/
theorem byteAt_sendUnit (u : SessionUnit) (a : Nat) (s : State) :
    byteAt .orb a (sendUnit u s) = byteAt .orb a (storeBytes .orb s.orbSize.toNat (u.gen s.phase).1 s) := by
  rw [sendUnit_frame]
  rfl

/-- A poll leaves every byte as it is. -/
theorem byteAt_sinkPoll (b : ByteSpace) (a : Nat) (s : State) : byteAt b a (sinkPoll s).2 = byteAt b a s := by
  rw [sinkPoll_snd]
  exact byteAt_congr (by cases b <;> rfl) rfl (fun _ => rfl) a

/-- A flush writes nothing at or past ORB_MIN. -/
theorem byteAt_orbFlush_above {s : State} {a : Nat} (h : s.params.orbMin ≤ a) :
    byteAt .orb a (orbFlush s) = byteAt .orb a s := by
  have hpad : byteAt .orb a (orbFlush s) = byteAt .orb a (padToThreshold s) :=
    byteAt_congr (b := .orb) rfl rfl (fun _ => rfl) a
  rw [hpad]
  rcases Nat.lt_or_ge s.orbSize.toNat s.params.orbMin with hlt | hge
  · rw [padToThreshold_of_lt hlt, byteAt_orbWrite]
    exact byteAt_storeBytes_above .orb _ a _ s ((orbSize_add_padding_length hlt).trans_le h)
  · rw [padToThreshold, if_neg (Nat.not_lt.mpr hge)]

/-- The run of ORB up to its threshold and its size. -/
abbrev orbReach (p : Params) : List (Nat × Nat) := [(0, max p.orbMin p.orbMax)]

theorem orbFrame_reach_iff (p : Params) (s t : State) :
    orbFrame (orbReach p) s t ↔ ∀ a, max p.orbMin p.orbMax ≤ a → byteAt .orb a t = byteAt .orb a s := by
  simp [orbFrame]

theorem PassOutcome.again_orbReach {n n' : Nat} {s s' : State} (h : PassOutcome n s (.again n' s')) :
    orbFrame (orbReach s.params) s s' := by
  rw [orbFrame_reach_iff]
  intro a ha
  cases h with
  | @sent u unit ready room below_bound =>
    rw [byteAt_sendUnit, byteAt_storeBytes_above, byteAt_sinkPoll]
    rw [unitAt_gen_length unit, sinkPoll_orbSize]
    omega
  | dataSent at_data no_data first => rfl
  | drained at_drain empty => rfl
  | flushed at_drain pending ready =>
    refine Eq.trans ?_ (byteAt_sinkPoll .orb a s)
    exact byteAt_orbFlush_above (s := (sinkPoll s).2) (by rw [sinkPoll_params]; omega)

theorem PassOutcome.done_orbReach {n : Nat} {s t : State} (h : PassOutcome n s (.done t)) :
    orbFrame (orbReach s.params) s t := by
  rw [orbFrame_reach_iff]
  intro a _
  cases h with
  | callEnds at_data bound => rfl
  | _ => exact byteAt_sinkPoll .orb a s

/-! ## A pump or a cancel always ends (R172) -/

/-- The code a last pass reports. -/
theorem PassOutcome.done_code {n : Nat} {s t : State} (h : PassOutcome n s (.done t)) :
    t.status.code ≠ .ok ∧ (t.status.code = .cancelled → s.status.cancelling = true) := by
  cases h with
  | ended at_finish ready => cases hc : s.status.cancelling <;> simp
  | _ => simp

/-- What every state of a call keeps of the state it started from. -/
structure Kept (s u : State) : Prop where
  frame : pumpFrame s u
  orb : orbFrame (orbReach s.params) s u
  cancelling : u.status.cancelling = s.status.cancelling

theorem pumpFrame_params {s t : State} (h : pumpFrame s t) : t.params = s.params := by rw [h]

theorem orbFrame_reach_trans {p : Params} {s t u : State} (h1 : orbFrame (orbReach p) s t) (h2 : orbFrame (orbReach p) t u) :
    orbFrame (orbReach p) s u :=
  fun a ha => (h2 a ha).trans (h1 a ha)

theorem runSequencer_kept {s t : State} (h : runSequencer s = .next t) :
    pumpFrame s t ∧ orbFrame (orbReach s.params) s t ∧ t.status.code ≠ .ok ∧
      (t.status.code = .cancelled → s.status.cancelling = true) := by
  refine runSequencer_induction (P := fun _ u => Kept s u)
    (Q := fun t => pumpFrame s t ∧ orbFrame (orbReach s.params) s t ∧ t.status.code ≠ .ok ∧
      (t.status.code = .cancelled → s.status.cancelling = true)) ?_ ?_ ⟨pumpFrame_refl s, fun _ _ => rfl, rfl⟩ h
  · intro n u n' u' hu hp
    have horb := hp.again_orbReach
    rw [pumpFrame_params hu.frame] at horb
    exact ⟨pumpFrame_trans hu.frame hp.again_frame, orbFrame_reach_trans hu.orb horb,
      hp.again_cancelling.trans hu.cancelling⟩
  · intro n u t hu hp
    have horb := hp.done_orbReach
    rw [pumpFrame_params hu.frame] at horb
    obtain ⟨hcode, hcancelled⟩ := hp.done_code
    exact ⟨pumpFrame_trans hu.frame hp.done_frame, orbFrame_reach_trans hu.orb horb, hcode,
      fun hc => hu.cancelling ▸ hcancelled hc⟩

/-- A cancellation moves to a place of the sequencer, or stays in one. -/
theorem beginCancel_mstate_ne_idle {s : State} (h : s.status.mstate ≠ .idle) : (beginCancel s).status.mstate ≠ .idle := by
  unfold beginCancel
  split
  · exact h
  · cases hm : s.status.mstate <;> simp_all [beforeTrailer]

/-- Settles O45: the sequencer ends from every place of a session, and each of its passes keeps to the frame. -/
theorem pumpAndCancelAlwaysEnd : Obligations.PumpAndCancelAlwaysEnd := by
  intro s hclear ht hm reach
  rw [exec_txPump_of_clear hclear, exec_txCancel_of_clear hclear, if_pos ht, if_pos ht]
  constructor
  · obtain ⟨t, hr⟩ := runSequencer_ends hm
    obtain ⟨hframe, horb, hcode, hcancelled⟩ := runSequencer_kept hr
    exact ⟨t, hr, hframe, horb, hcode, hcancelled⟩
  · obtain ⟨t, hr⟩ := runSequencer_ends (beginCancel_mstate_ne_idle hm)
    obtain ⟨hframe, horb, hcode, -⟩ := runSequencer_kept hr
    have hbegin : orbFrame reach s (beginCancel s) := fun a _ =>
      byteAt_congr (b := .orb) (beginCancel_orb s) (beginCancel_powerOns s) (fun _ => beginCancel_srcStale s) a
    rw [beginCancel_params] at horb
    exact ⟨t, hr, pumpFrame_trans (pumpFrame_beginCancel s) hframe, orbFrame_reach_trans hbegin horb, hcode⟩

/-! ## What a pump consumes (R35, R172) -/

/-- A call's place in the data: the bytes it has taken so far are what CURSOR has moved by. -/
structure Consumed (s : State) (n : Nat) (u : State) : Prop where
  inv : Inv u
  bound : n ≤ Config.pumpMax
  cursor : u.cursor.toNat = s.cursor.toNat + n
  sesLen : u.sesLen = s.sesLen

theorem Consumed.pass_again {s u u' : State} {n n' : Nat} (h : Consumed s n u) (hp : PassOutcome n u (.again n' u')) :
    Consumed s n' u' := by
  obtain ⟨hbound, -⟩ := hp.progress h.bound
  refine ⟨h.inv.pass_again hp, hbound, ?_, ?_⟩
  · cases hp with
    | @sent v unit ready room below_bound =>
      have hcursor : (sendUnit v (sinkPoll u).2).cursor = u.cursor + BitVec.ofNat 32 v.bytes := by
        rw [sendUnit_frame, sinkPoll_cursor]
      have hbytes : v.bytes ≤ 1 := by
        obtain ⟨-, ⟨hb, -⟩ | ⟨hb, -⟩⟩ := unitAt_progress unit <;> omega
      have := h.inv.params.txbMax_lt
      have := h.inv.cursor_le
      have := h.inv.sesLen_le
      have := h.cursor
      rw [hcursor, BitVec.toNat_add, BitVec.toNat_ofNat]
      omega
    | dataSent at_data no_data first => exact h.cursor
    | drained at_drain empty => exact h.cursor
    | flushed at_drain pending ready => simpa using h.cursor
  · cases hp with
    | sent unit ready room below_bound => rw [sendUnit_frame, sinkPoll_sesLen, h.sesLen]
    | dataSent at_data no_data first => exact h.sesLen
    | drained at_drain empty => exact h.sesLen
    | flushed at_drain pending ready => simpa using h.sesLen

/-- A last pass that does not end the session leaves CURSOR and SES_LEN. -/
theorem PassOutcome.done_session {n : Nat} {s t : State} (h : PassOutcome n s (.done t)) (ht : t.status.transmitting = true) :
    t.cursor = s.cursor ∧ t.sesLen = s.sesLen := by
  cases h with
  | ended at_finish ready => simp at ht
  | _ => simp

theorem Consumed.runSequencer {s t : State} (h : Inv s) (hr : runSequencer s = .next t)
    (ht : t.status.transmitting = true) : ∃ n ≤ Config.pumpMax, t.cursor.toNat = s.cursor.toNat + n ∧ t.sesLen = s.sesLen := by
  refine runSequencer_induction (P := Consumed s)
    (Q := fun t => t.status.transmitting = true →
      ∃ n ≤ Config.pumpMax, t.cursor.toNat = s.cursor.toNat + n ∧ t.sesLen = s.sesLen)
    (fun _ _ _ _ => Consumed.pass_again) ?_ ⟨h, Nat.zero_le _, rfl, rfl⟩ hr ht
  intro n u t hu hp ht
  obtain ⟨hcursor, hsesLen⟩ := hp.done_session ht
  exact ⟨n, hu.bound, by rw [hcursor, hu.cursor], hsesLen.trans hu.sesLen⟩

/-- Settles O50: CURSOR has moved by the bytes the call took, and the invariant keeps it within SES_LEN. -/
theorem pumpIsBounded : Obligations.PumpIsBounded := by
  intro s t h he ht
  have hinv := h.after_exec he
  cases exec_outcome he with
  | refused not_reset fault =>
    have hle := h.cursor_le
    simp only [finishError_cursor]
    omega
  | noSession clear no_session => simp [no_session] at ht
  | badState clear which session => simp [refusedInSession] at which
  | invalid clear which => simp at which
  | pumped clear session run =>
    obtain ⟨n, hn, hcursor, hsesLen⟩ := Consumed.runSequencer h run ht
    have hle := hinv.cursor_le
    rw [hsesLen] at hle
    simp only [Config.pumpMax] at hn
    omega

/-! ## What a session freezes -/

/-- What the session sends and depends on: the pipeline's buffers, their lengths, CFG and SES_LEN. -/
def sessionData (s : State) : Memory × List Nat × Memory × Memory × Word × Word × Word × Word × Word :=
  (s.src, s.srcStale, s.cod, s.txb, s.srcLen, s.codLen, s.txbLen, s.cfg, s.sesLen)

theorem sessionData_of_pumpFrame {s t : State} (h : pumpFrame s t) (hlen : t.sesLen = s.sesLen) :
    sessionData t = sessionData s := by
  rw [h]
  simp only [sessionData, hlen]

theorem runSequencer_sesLen {s t : State} (h : runSequencer s = .next t) (ht : t.status.transmitting = true) :
    t.sesLen = s.sesLen := by
  refine runSequencer_induction (P := fun _ u => u.sesLen = s.sesLen)
    (Q := fun t => t.status.transmitting = true → t.sesLen = s.sesLen) ?_ ?_ rfl h ht
  · intro n u n' u' hu hp
    cases hp with
    | sent unit ready room below_bound => rw [sendUnit_frame, sinkPoll_sesLen, hu]
    | dataSent at_data no_data first => exact hu
    | drained at_drain empty => exact hu
    | flushed at_drain pending ready => simpa using hu
  · exact fun n u t hu hp ht => (hp.done_session ht).2.trans hu

theorem exec_sessionData {i : Instr} {s t : State} (h : exec i s = .next t) (hs : s.status.transmitting = true)
    (ht : t.status.transmitting = true) : sessionData t = sessionData s := by
  cases exec_outcome h with
  | reset => cases ht
  | refused not_reset fault => rfl
  | badState clear which session => rfl
  | invalid clear which => rfl
  | sized clear => rfl
  | counted clear => rfl
  | noSession clear no_session => rfl
  | flushEmpty clear => rfl
  | flushBusy clear => exact sessionData_of_pumpFrame (pumpFrame_trans (pumpFrame_sinkPoll s) rfl) (by simp)
  | flushed clear =>
    exact sessionData_of_pumpFrame
      (pumpFrame_trans (pumpFrame_sinkPoll s) (pumpFrame_trans (pumpFrame_orbFlush _) rfl)) (by simp)
  | pumped clear session run => exact sessionData_of_pumpFrame (runSequencer_frame run) (runSequencer_sesLen run ht)
  | cancelled clear session run =>
    exact sessionData_of_pumpFrame (pumpFrame_trans (pumpFrame_beginCancel s) (runSequencer_frame run))
      ((runSequencer_sesLen run ht).trans (beginCancel_sesLen s))
  | encoded clear no_session | escaped clear no_session | opened clear no_session data | toneBusy clear no_session
  | toneOverflow clear no_session | toneSent clear no_session room => simp [hs] at no_session

/-- During a session the only register a write may change is ARG0 (R67). -/
theorem portWrite_in_session {q : Request} {s t : State} (hs : s.status.transmitting = true) (h : portWrite q s = some t) :
    ∃ v, t = { s with arg0 := v } := by
  unfold portWrite at h
  split at h
  case h_2 =>
    simp only [writeReg, hs, ite_eq_iff, Option.some.injEq, reduceCtorEq, false_and, and_false, or_false] at h
    obtain ⟨-, rfl⟩ := h
    exact ⟨_, rfl⟩
  case h_3 => simp [hs] at h
  all_goals cases h

theorem execIllegal_sessionData {w : Word} {s t : State} (h : execIllegal w s = .next t) : sessionData t = sessionData s := by
  obtain rfl | ⟨-, rfl⟩ := execIllegal_cases h <;> rfl

/-- Settles O28: each way a step can end within a session leaves the session's data. -/
theorem sessionDataIsFrozen : Obligations.SessionDataIsFrozen := by
  intro s t h hs ht
  have hdata : sessionData t = sessionData s := by
    cases step_outcome h with
    | nothing => rfl
    | rst event => cases ht
    | answered r => rfl
    | written write =>
      obtain ⟨v, rfl⟩ := portWrite_in_session (by exact hs) write
      rfl
    | @command w _ _ _ event word run => exact exec_sessionData (s := acceptCmd w (popInput s)) run hs ht
    | @illegal w _ run => exact execIllegal_sessionData (s := acceptCmd w (popInput s)) run
  simpa only [sessionData, Prod.mk.injEq] using hdata

/-! ## RES0 (R29) -/

/-- Besides RESET only four commands write RES0, and they report ST_OK. -/
theorem exec_res0 {i : Instr} {s t : State} (h : exec i s = .next t) (hne : t.res0 ≠ s.res0) :
    i = .reset ∨ ((i = .fecSize ∨ i = .fecEncode ∨ i = .escCount ∨ i = .escEscape) ∧ t.status.code = .ok) := by
  cases exec_outcome h with
  | reset => exact .inl rfl
  | sized clear => exact .inr ⟨.inl rfl, by simp⟩
  | encoded clear no_session => exact .inr ⟨.inr (.inl rfl), by simp⟩
  | counted clear => exact .inr ⟨.inr (.inr (.inl rfl)), by simp⟩
  | escaped clear no_session => exact .inr ⟨.inr (.inr (.inr rfl)), by simp⟩
  | pumped clear session run =>
    rw [runSequencer_frame run] at hne
    exact absurd rfl hne
  | cancelled clear session run =>
    rw [runSequencer_frame run] at hne
    exact absurd (beginCancel_res0 s) hne
  | toneSent clear no_session room =>
    rw [writeUnit_frame] at hne
    simp at hne
  | _ => simp at hne

theorem portWrite_res0 {q : Request} {s t : State} (h : portWrite q s = some t) : t.res0 = s.res0 := by
  obtain hreg | rfl := portWrite_cases h
  · obtain rfl | rfl | rfl := writeReg_cases hreg <;> rfl
  · rfl

theorem execIllegal_res0 {w : Word} {s t : State} (h : execIllegal w s = .next t) : t.res0 = s.res0 := by
  obtain rfl | ⟨-, rfl⟩ := execIllegal_cases h <;> rfl

/-- Settles O26: of the ways a step can end, `rst` and a command may change RES0, and of the commands `exec_res0` lists which. -/
theorem onlyFourCommandsWriteTheResult : Obligations.OnlyFourCommandsWriteTheResult := by
  refine ⟨fun s t h hne => ?_, fun s t h => ?_⟩
  · cases step_outcome h with
    | nothing => exact absurd rfl hne
    | rst event => exact .inl ⟨_, event⟩
    | answered r => exact absurd rfl hne
    | written write => exact absurd (portWrite_res0 write) hne
    | command event word run => exact .inr ⟨_, _, _, event, word, exec_res0 run hne⟩
    | illegal run => exact absurd (execIllegal_res0 run) hne
  · cases (exec_reset s).symm.trans h
    rfl

/-! ## The configuration (R50) -/

theorem params_of_hostSide {s t : State} (h : hostSide t = hostSide s) : t.params = s.params := congrArg Prod.fst h

theorem portWrite_params {q : Request} {s t : State} (h : portWrite q s = some t) : t.params = s.params := by
  obtain hreg | rfl := portWrite_cases h
  · obtain rfl | rfl | rfl := writeReg_cases hreg <;> rfl
  · rfl

/-- Settles O29: no way a step can end writes the record. -/
theorem configurationNeverChanges : Obligations.ConfigurationNeverChanges := by
  intro s t h
  cases step_outcome h with
  | nothing => rfl
  | rst event => rfl
  | answered r => rfl
  | written write =>
    have hu := portWrite_params write
    exact hu
  | @command w _ _ _ event word run => exact params_of_hostSide (s := acceptCmd w (popInput s)) (exec_hostSide run)
  | @illegal w _ run => obtain rfl | ⟨-, rfl⟩ := execIllegal_cases run <;> rfl

/-! ## Reports (R221, R231, R233) -/

/-- How a command that found FAULT = 0 in `s` reports in `t`. -/
structure Reports (s t : State) : Prop where
  no_error : t.status.code ≠ .error → t.status.cause = .none ∧ t.errinfo = 0
  error : t.status.code = .error → t.status.cause ≠ .none
  fault_iff : t.status.fault = true ↔ t.status.code = .error ∧ fatalCause t.status.cause = true
  fcause : t.status.fault = true → t.status.fcause = t.status.cause
  fcause_kept : t.status.fault = false → t.status.fcause = s.status.fcause

/-- FAULT is still 0 and FCAUSE as it was. -/
abbrev FaultKept (s u : State) : Prop := u.status.fault = false ∧ u.status.fcause = s.status.fcause

section Ends

variable {s u : State} (hu : FaultKept s u)
include hu

theorem reports_finishWith {code : Code} (hcode : code ≠ .error) : Reports s (finishWith code u) := by
  obtain ⟨hfault, hfcause⟩ := hu
  constructor <;> simp [hcode, hfault, hfcause]

theorem reports_finishError {cause : Cause} (hc : cause ≠ .none) (hfatal : fatalCause cause = false) :
    Reports s (finishError cause u) := by
  obtain ⟨hfault, hfcause⟩ := hu
  constructor <;> simp [hc, hfatal, hfault, hfcause]

theorem reports_raiseFault {cause : Cause} (info : Word) (hfatal : fatalCause cause = true) :
    Reports s (raiseFault cause info u) := by
  obtain ⟨hfault, hfcause⟩ := hu
  have hc : cause ≠ .none := by rintro rfl; cases hfatal
  constructor <;> simp [hc, hfatal, hfault]

end Ends

theorem runSequencer_reports {s u t : State} (hu : FaultKept s u) (h : runSequencer u = .next t) : Reports s t := by
  refine runSequencer_induction (P := fun _ v => FaultKept s v) ?_ ?_ hu h
  · intro n v n' v' hv hp
    cases hp with
    | sent unit ready room below_bound =>
      rw [FaultKept, sendUnit_frame, sinkPoll_status]
      exact hv
    | dataSent at_data no_data first => exact hv
    | drained at_drain empty => exact hv
    | flushed at_drain pending ready => simpa [FaultKept] using hv
  · intro n v t hv hp
    have hpoll : FaultKept s (sinkPoll v).2 := by simpa [FaultKept] using hv
    cases hp with
    | busy not_ready => exact reports_finishWith hpoll (by decide)
    | unescaped at_data data_left ready sync => exact reports_raiseFault hpoll _ rfl
    | overflow unit ready no_room => exact reports_raiseFault hpoll _ rfl
    | callEnds at_data bound => exact reports_finishWith hv (by decide)
    | ended at_finish ready =>
      have hcode : (if v.status.cancelling then Code.cancelled else .complete) ≠ .error := by split <;> decide
      exact reports_finishWith (u := endSession (sinkPoll v).2) hpoll hcode

theorem exec_reports {i : Instr} {s t : State} (hi : i ≠ .reset) (hclear : s.status.fault = false) (h : exec i s = .next t) :
    Reports s t := by
  have hs : FaultKept s s := ⟨hclear, rfl⟩
  have hpoll : FaultKept s (sinkPoll s).2 := by simpa [FaultKept] using hclear
  cases exec_outcome h with
  | reset => exact absurd rfl hi
  | refused not_reset fault => simp [hclear] at fault
  | badState clear which session => exact reports_raiseFault hs _ rfl
  | invalid clear which => exact reports_finishError hs (by decide) rfl
  | sized clear => exact
      reports_finishWith (u := { s with res0 := BitVec.ofNat 32 (fecSize (dataSize s)) }) hs (by decide)
  | encoded clear no_session => exact reports_finishWith (u := encodeSource s) hs (by decide)
  | counted clear => exact
      reports_finishWith (u := { s with res0 := BitVec.ofNat 32 (countReserved (codBytes s)) }) hs (by decide)
  | escaped clear no_session => exact reports_finishWith (u := escapeCoded s) hs (by decide)
  | opened clear no_session data => exact reports_finishWith (u := openSession s) hs (by decide)
  | toneBusy clear no_session => exact reports_finishWith hpoll (by decide)
  | toneOverflow clear no_session => exact reports_raiseFault hpoll _ rfl
  | toneSent clear no_session room => exact reports_finishWith (by simpa [FaultKept] using hclear) (by decide)
  | flushEmpty clear => exact reports_finishWith hs (by decide)
  | flushBusy clear => exact reports_finishWith hpoll (by decide)
  | flushed clear => exact reports_finishWith (by simpa [FaultKept] using hclear) (by decide)
  | noSession clear no_session => exact reports_raiseFault hs _ rfl
  | pumped clear session run => exact runSequencer_reports hs run
  | cancelled clear session run =>
    refine runSequencer_reports ?_ run
    unfold beginCancel
    split <;> exact hs

/-- Settles O27: with FAULT = 1 the command is refused, with FAULT = 0 `exec_reports` says what it reports. -/
theorem commandsReportByFinishOrFault : Obligations.CommandsReportByFinishOrFault := by
  intro i s t hi h
  cases hfault : s.status.fault with
  | true =>
    cases (exec_of_fault hi hfault).symm.trans h
    simp [hfault]
  | false =>
    have hr := exec_reports hi hfault h
    exact ⟨hr.no_error, hr.error, fun hf => absurd hf (by decide), fun _ => ⟨hr.fault_iff, hr.fcause, hr.fcause_kept⟩⟩

/-! ## The causes that are never reported (R120, R179, R231, R236) -/

/-- Under the invariant the sequencer reports no error. -/
theorem Inv.runSequencer_cause {s t : State} (h : Inv s) (hr : runSequencer s = .next t) : t.status.cause = .none := by
  refine runSequencer_induction (P := fun _ u => Inv u) (Q := fun t => t.status.cause = .none)
    (fun _ _ _ _ => Inv.pass_again) ?_ h hr
  intro n u t hu hp
  cases hp with
  | unescaped at_data data_left ready sync => exact absurd sync (hu.sessionByte_ne_sync at_data data_left)
  | overflow unit ready no_room => exact absurd (hu.unit_room unit) (Nat.not_le.mpr no_room)
  | _ => simp

/-- Settles O21: each end of a command names its cause, and the sequencer's is none. -/
theorem unreachableErrorsAreNeverReported : Obligations.UnreachableErrorsAreNeverReported := by
  intro i s t h he
  cases exec_outcome he with
  | reset => simp [Status.reset]
  | toneOverflow clear no_session => simp
  | pumped clear session run => simp [h.runSequencer_cause run]
  | cancelled clear session run => simp [(h.after_beginCancel session).runSequencer_cause run]
  | _ => simp

/-! ## The sequencer's arrows (R171) -/

theorem PassOutcome.again_arrow {n n' : Nat} {s s' : State} (h : PassOutcome n s (.again n' s')) :
    sequencerArrow s.status.cancelling s.status.mstate s'.status.mstate = true := by
  cases h with
  | @sent u unit ready room below_bound =>
    rw [sendUnit_frame]
    obtain ⟨hm, rfl⟩ | ⟨hm, rfl⟩ | ⟨hm, rfl⟩ | ⟨hm, -, rfl⟩ | ⟨hm, rfl⟩ | ⟨hm, rfl⟩ := unitAt_cases unit <;> rw [hm]
    case inr.inr.inr.inr.inl => cases s.status.cancelling <;> rfl
    all_goals rfl
  | dataSent at_data no_data first => rw [at_data]; rfl
  | drained at_drain empty => rw [at_drain]; rfl
  | flushed at_drain pending ready => rw [at_drain]; rfl

theorem PassOutcome.done_arrow {n : Nat} {s t : State} (h : PassOutcome n s (.done t)) :
    t.status.mstate = s.status.mstate ∨
      sequencerArrow s.status.cancelling s.status.mstate t.status.mstate = true := by
  cases h with
  | ended at_finish ready =>
    right
    rw [at_finish]
    simp [sequencerArrow]
  | _ => simp

/-- MSTATE goes along the sequencer's arrows. -/
theorem runSequencer_arrows {s t : State} (h : runSequencer s = .next t) :
    Relation.ReflTransGen (fun a b => sequencerArrow s.status.cancelling a b = true) s.status.mstate t.status.mstate := by
  refine runSequencer_induction
    (P := fun _ u => u.status.cancelling = s.status.cancelling ∧
      Relation.ReflTransGen (fun a b => sequencerArrow s.status.cancelling a b = true) s.status.mstate u.status.mstate)
    (Q := fun t =>
      Relation.ReflTransGen (fun a b => sequencerArrow s.status.cancelling a b = true) s.status.mstate t.status.mstate)
    ?_ ?_ ⟨rfl, .refl⟩ h
  · rintro n u n' u' ⟨hc, hu⟩ hp
    have harrow := hp.again_arrow
    rw [hc] at harrow
    exact ⟨hp.again_cancelling.trans hc, hu.tail harrow⟩
  · rintro n u t ⟨hc, hu⟩ hp
    obtain hm | harrow := hp.done_arrow
    · rwa [hm]
    · rw [hc] at harrow
      exact hu.tail harrow

/-- What a cancellation does before the sequencer runs: an arrow to the trailer or nothing, and CANCELLING is set. -/
theorem beginCancel_arrow (s : State) :
    (beginCancel s).status.cancelling = true ∧ ((beginCancel s).status.mstate = s.status.mstate ∨
      (beforeTrailer s.status.mstate = true ∧ (beginCancel s).status.mstate = .trailer)) := by
  unfold beginCancel
  split
  next hc => exact ⟨hc, .inl rfl⟩
  next => cases hb : beforeTrailer s.status.mstate <;> simp

/-- Settles O22: TX_START's arrow leaves M_IDLE, a pump follows the sequencer, a cancel takes its own arrow first, and no other
command moves MSTATE. -/
theorem sequencerFollowsItsTable : Obligations.SequencerFollowsItsTable := by
  intro i s t h hi he
  cases exec_outcome he with
  | reset => exact absurd rfl hi
  | opened clear no_session data =>
    have hidle : s.status.mstate = .idle := h.idle_iff.mp no_session
    exact .single (by simp [arrow, hidle])
  | pumped clear session run => exact runSequencer_arrows run
  | cancelled clear session run =>
    have hrun := runSequencer_arrows run
    obtain ⟨hc, hm⟩ := beginCancel_arrow s
    rw [hc] at hrun
    have hrun := Relation.ReflTransGen.mono (p := fun a b => arrow .txCancel s.status.cancelling a b = true)
      (fun a b hab => by simp [arrow, hab]) _ _ hrun
    obtain hm | ⟨hb, hm⟩ := hm
    · rwa [hm] at hrun
    · exact .head (by simp [arrow, hb, hm]) hrun
  | toneSent clear no_session room => simpa using .refl
  | _ => simpa using .refl

end Sys2Proof.Machine

/-! What reaches the sink (R77, R163, R200 to R206). A unit written and a flush each append their samples to the stream of samples and
cut it as `cutHandoffs` says; `Emitted` says so of a whole sequence of units, and sequences compose. -/

namespace Sys2Proof.Machine

/-! ## Sequences of units -/

theorem makeUnits_append (a b : List (Word → List Byte × Word)) (phase : Word) :
    makeUnits (a ++ b) phase =
      ((makeUnits a phase).1 ++ (makeUnits b (makeUnits a phase).2).1, (makeUnits b (makeUnits a phase).2).2) := by
  induction a generalizing phase with
  | nil => rfl
  | cons gen a ih => simp only [List.cons_append, makeUnits, ih]

theorem makeUnits_length (gens : List (Word → List Byte × Word)) (phase : Word) :
    (makeUnits gens phase).1.length = gens.length := by
  induction gens generalizing phase with
  | nil => rfl
  | cons gen gens ih => simp only [makeUnits, List.length_cons, ih]

theorem cutHandoffs_append (orbMin : Nat) (a b : List (List Byte)) (pending : List Byte) :
    cutHandoffs orbMin pending (a ++ b) =
      ((cutHandoffs orbMin pending a).1 ++ (cutHandoffs orbMin (cutHandoffs orbMin pending a).2 b).1,
        (cutHandoffs orbMin (cutHandoffs orbMin pending a).2 b).2) := by
  induction a generalizing pending with
  | nil => rfl
  | cons u a ih =>
    simp only [List.cons_append, cutHandoffs]
    split
    · simp only [ih, List.cons_append]
    · exact ih _

/-- Hand-offs drop no sample and change no order (R163). -/
theorem cutHandoffs_flatten (orbMin : Nat) (us : List (List Byte)) (pending : List Byte) :
    (cutHandoffs orbMin pending us).1.flatten ++ (cutHandoffs orbMin pending us).2 = pending ++ us.flatten := by
  induction us generalizing pending with
  | nil => simp [cutHandoffs]
  | cons u us ih =>
    simp only [cutHandoffs]
    split
    · rw [List.flatten_cons, List.append_assoc, ih, List.nil_append, List.flatten_cons, List.append_assoc]
    · rw [ih, List.flatten_cons, List.append_assoc]

/-- The runs of a sequence: those of its first part, and those of its second part from what the first left pending. -/
theorem unitRuns_append (orbMin : Nat) (a b : List (List Byte)) (pending : List Byte) :
    unitRuns orbMin pending.length (a ++ b) =
      unitRuns orbMin pending.length a ++ unitRuns orbMin (cutHandoffs orbMin pending a).2.length b := by
  induction a generalizing pending with
  | nil => rfl
  | cons u a ih =>
    simp only [List.cons_append, unitRuns, cutHandoffs, List.length_append]
    congr 1
    split
    next => exact ih []
    next => rw [← List.length_append]; exact ih (pending ++ u)

/-! ## One unit and one flush -/

theorem pendingSamples_congr {s t : State} (horb : t.orb = s.orb) (hsize : t.orbSize = s.orbSize)
    (hpower : t.powerOns = s.powerOns) : pendingSamples t = pendingSamples s := by
  rw [pendingSamples, hsize]
  exact bytesAt_congr fun a _ _ => byteAt_congr (b := .orb) horb hpower (fun h => nomatch h) a

@[simp] theorem pendingSamples_length (s : State) : (pendingSamples s).length = s.orbSize.toNat := bytesAt_length ..

theorem pendingSamples_eq_nil_iff (s : State) : pendingSamples s = [] ↔ s.orbSize = 0 := by
  rw [← List.length_eq_zero_iff, pendingSamples_length, ← BitVec.toNat_inj]
  rfl

section WriteUnit

variable {s : State} {gen : Word → List Byte × Word} (hm : s.orb.wf)
  (hfits : s.orbSize.toNat + (gen s.phase).1.length ≤ 0xFFFFFFFF)
include hm hfits

/-- A unit written appends its samples, and at the threshold all pending ones are handed off. -/
theorem writeUnit_cut :
    (writeUnit gen s).sinkLog =
        s.sinkLog ++ (cutHandoffs s.params.orbMin (pendingSamples s) [(gen s.phase).1]).1 ∧
      pendingSamples (writeUnit gen s) = (cutHandoffs s.params.orbMin (pendingSamples s) [(gen s.phase).1]).2 := by
  have hpending : pendingSamples (orbWrite (gen s.phase).1 { s with phase := (gen s.phase).2 }) =
      pendingSamples s ++ (gen s.phase).1 := pendingSamples_orbWrite hm hfits
  have hparams : (orbWrite (gen s.phase).1 { s with phase := (gen s.phase).2 }).params = s.params := rfl
  have hlog : (orbWrite (gen s.phase).1 { s with phase := (gen s.phase).2 }).sinkLog = s.sinkLog := rfl
  rw [writeUnit]
  generalize orbWrite (gen s.phase).1 { s with phase := (gen s.phase).2 } = w at hpending hparams hlog
  simp only [cutHandoffs, ← hpending, pendingSamples_length, ← hparams, ← hlog]
  split
  next hge => rw [autoHandoff_of_ge hge]; exact ⟨rfl, rfl⟩
  next hlt => rw [autoHandoff_of_lt (Nat.lt_of_not_le hlt)]; exact ⟨(List.append_nil _).symm, rfl⟩

/-- The stream after a unit. -/
theorem stream_writeUnit : stream (writeUnit gen s) = stream s ++ (gen s.phase).1 := by
  obtain ⟨hlog, hpending⟩ := writeUnit_cut hm hfits
  rw [stream, hlog, hpending, List.flatten_append, List.append_assoc, cutHandoffs_flatten, stream]
  simp

end WriteUnit

section Flush

variable {s : State} (h : Inv s)
include h

theorem Inv.orbMin_fits : s.params.orbMin ≤ 0xFFFFFFFF := by
  have := h.orbMin_le
  have := h.params.orbMax_lt
  omega

theorem Inv.orbFlush_sinkLog : (orbFlush s).sinkLog =
    s.sinkLog ++ [pendingSamples s ++ List.replicate (s.params.orbMin - s.orbSize.toNat) 0] := by
  rw [orbFlush_of_lt h.orbSize_lt h.orb_wf h.orbMin_fits]

theorem Inv.stream_orbFlush :
    stream (orbFlush s) = stream s ++ List.replicate (s.params.orbMin - s.orbSize.toNat) 0 := by
  have hempty : pendingSamples (orbFlush s) = [] := (pendingSamples_eq_nil_iff _).mpr rfl
  rw [stream, h.orbFlush_sinkLog, hempty, stream]
  simp

end Flush

/-! ## The log only grows, by blocks of legal sizes (R203, R205) -/

/-- The log of `t` is that of `s` and then blocks of between ORB_MIN and ORB_MAX bytes. -/
def LogGrows (s t : State) : Prop :=
  ∃ blocks, t.sinkLog = s.sinkLog ++ blocks ∧ ∀ b ∈ blocks, s.params.orbMin ≤ b.length ∧ b.length ≤ s.params.orbMax

theorem LogGrows.of_eq {s t : State} (h : t.sinkLog = s.sinkLog) : LogGrows s t := ⟨[], by simp [h], by simp⟩

theorem LogGrows.trans {s t u : State} (h1 : LogGrows s t) (hp : t.params = s.params) (h2 : LogGrows t u) : LogGrows s u := by
  obtain ⟨b1, hl1, hb1⟩ := h1
  obtain ⟨b2, hl2, hb2⟩ := h2
  refine ⟨b1 ++ b2, by rw [hl2, hl1, List.append_assoc], fun b hb => ?_⟩
  rw [hp] at hb2
  exact (List.mem_append.mp hb).elim (hb1 b) (hb2 b)

/-- A block handed off after a unit is what the unit's samples reached the threshold with. -/
theorem Inv.logGrows_writeUnit {s : State} (h : Inv s) {gen : Word → List Byte × Word}
    (hroom : s.orbSize.toNat + (gen s.phase).1.length ≤ s.params.orbMax) : LogGrows s (writeUnit gen s) := by
  have hmax := h.params.orbMax_lt
  refine ⟨_, (writeUnit_cut h.orb_wf (by omega)).1, fun b hb => ?_⟩
  simp only [cutHandoffs] at hb
  split at hb
  next hge =>
    rw [List.mem_singleton] at hb
    subst hb
    exact ⟨hge, by simpa using hroom⟩
  next => cases hb

theorem Inv.logGrows_orbFlush {s : State} (h : Inv s) : LogGrows s (orbFlush s) := by
  refine ⟨_, h.orbFlush_sinkLog, fun b hb => ?_⟩
  have hlt := h.orbSize_lt
  have hle := h.orbMin_le
  rw [List.mem_singleton.mp hb, List.length_append, pendingSamples_length, List.length_replicate]
  omega

theorem PassOutcome.again_logGrows {n n' : Nat} {s s' : State} (h : Inv s) (hp : PassOutcome n s (.again n' s')) :
    LogGrows s s' := by
  have hpoll : LogGrows s (sinkPoll s).2 := .of_eq (sinkPoll_sinkLog s)
  cases hp with
  | @sent u unit ready room below_bound =>
    refine hpoll.trans (sinkPoll_params s) (h.after_sinkPoll.logGrows_writeUnit (gen := u.gen) ?_)
    rwa [unitAt_gen_length unit, sinkPoll_orbSize, sinkPoll_params]
  | dataSent at_data no_data first => exact .of_eq rfl
  | drained at_drain empty => exact .of_eq rfl
  | flushed at_drain pending ready => exact hpoll.trans (sinkPoll_params s) h.after_sinkPoll.logGrows_orbFlush

theorem PassOutcome.done_sinkLog {n : Nat} {s t : State} (h : PassOutcome n s (.done t)) : t.sinkLog = s.sinkLog := by
  cases h <;> simp

theorem Inv.runSequencer_logGrows {s t : State} (h : Inv s) (hr : runSequencer s = .next t) : LogGrows s t := by
  refine runSequencer_induction (P := fun _ u => Inv u ∧ pumpFrame s u ∧ LogGrows s u) (Q := fun t => LogGrows s t)
    ?_ ?_ ⟨h, rfl, .of_eq rfl⟩ hr
  · rintro n u n' u' ⟨hu, hframe, hlog⟩ hp
    exact ⟨hu.pass_again hp, pumpFrame_trans hframe hp.again_frame,
      hlog.trans (pumpFrame_params hframe) (hp.again_logGrows hu)⟩
  · rintro n u t ⟨-, hframe, hlog⟩ hp
    exact hlog.trans (pumpFrame_params hframe) (.of_eq hp.done_sinkLog)

theorem Inv.exec_logGrows {i : Instr} {s t : State} (h : Inv s) (he : exec i s = .next t) : LogGrows s t := by
  have hpoll : LogGrows s (sinkPoll s).2 := .of_eq (sinkPoll_sinkLog s)
  cases exec_outcome he with
  | @toneSent n clear no_session room =>
    refine hpoll.trans (sinkPoll_params s) (h.after_sinkPoll.logGrows_writeUnit (gen := synth s.params s.arg0 n) ?_)
    rwa [synth_length, sinkPoll_orbSize, sinkPoll_params]
  | flushed clear => exact hpoll.trans (sinkPoll_params s) h.after_sinkPoll.logGrows_orbFlush
  | pumped clear session run => exact h.runSequencer_logGrows run
  | cancelled clear session run =>
    exact LogGrows.trans (.of_eq (beginCancel_sinkLog s)) (beginCancel_params s)
      ((h.after_beginCancel session).runSequencer_logGrows run)
  | _ => exact .of_eq (by simp)

/-- Settles O23: of the ways a step can end only a command writes the log, and `rst` keeps it. -/
theorem handoffsHaveLegalSizes : Obligations.HandoffsHaveLegalSizes := by
  intro s t h hs
  have hgrows : LogGrows s t := by
    cases step_outcome hs with
    | nothing => exact .of_eq rfl
    | rst event => exact .of_eq rfl
    | answered r => exact .of_eq rfl
    | @written q u write =>
      have hside := portWrite_sinkSide write
      simp only [sinkSide, Prod.mk.injEq] at hside
      exact .of_eq hside.2.2
    | @command w _ _ _ event word run => exact (h.after_popInput.after_acceptCmd w).exec_logGrows run
    | illegal run => obtain rfl | ⟨-, rfl⟩ := execIllegal_cases run <;> exact .of_eq rfl
  exact hgrows

/-! ## The stream only grows (R77) -/

theorem stream_congr {s t : State} (hlog : t.sinkLog = s.sinkLog) (horb : t.orb = s.orb) (hsize : t.orbSize = s.orbSize)
    (hpower : t.powerOns = s.powerOns) : stream t = stream s := by
  rw [stream, hlog, pendingSamples_congr horb hsize hpower, stream]

theorem stream_prefix_of_eq {s t : State} (hlog : t.sinkLog = s.sinkLog) (horb : t.orb = s.orb)
    (hsize : t.orbSize = s.orbSize) (hpower : t.powerOns = s.powerOns) : stream s <+: stream t :=
  (stream_congr hlog horb hsize hpower) ▸ List.prefix_refl _

theorem stream_sinkPoll (s : State) : stream (sinkPoll s).2 = stream s := stream_congr (by simp) (by simp) (by simp) (by simp)

theorem Inv.stream_prefix_writeUnit {s : State} (h : Inv s) {gen : Word → List Byte × Word}
    (hroom : s.orbSize.toNat + (gen s.phase).1.length ≤ s.params.orbMax) :
    stream s <+: stream (writeUnit gen (sinkPoll s).2) := by
  have hmax := h.params.orbMax_lt
  rw [stream_writeUnit h.after_sinkPoll.orb_wf (by rw [sinkPoll_orbSize, sinkPoll_phase]; omega), stream_sinkPoll]
  exact List.prefix_append _ _

theorem Inv.stream_prefix_orbFlush {s : State} (h : Inv s) : stream s <+: stream (orbFlush (sinkPoll s).2) := by
  rw [h.after_sinkPoll.stream_orbFlush, stream_sinkPoll]
  exact List.prefix_append _ _

theorem PassOutcome.again_stream {n n' : Nat} {s s' : State} (h : Inv s) (hp : PassOutcome n s (.again n' s')) :
    stream s <+: stream s' := by
  cases hp with
  | @sent u unit ready room below_bound =>
    have hsent : stream (sendUnit u (sinkPoll s).2) = stream (writeUnit u.gen (sinkPoll s).2) :=
      stream_congr rfl rfl rfl rfl
    rw [hsent]
    exact h.stream_prefix_writeUnit (by rwa [unitAt_gen_length unit])
  | dataSent at_data no_data first => exact stream_prefix_of_eq rfl rfl rfl rfl
  | drained at_drain empty => exact stream_prefix_of_eq rfl rfl rfl rfl
  | flushed at_drain pending ready =>
    have hset : stream (setMState .finish (orbFlush (sinkPoll s).2)) = stream (orbFlush (sinkPoll s).2) :=
      stream_congr rfl rfl rfl rfl
    rw [hset]
    exact h.stream_prefix_orbFlush

theorem PassOutcome.done_stream {n : Nat} {s t : State} (h : PassOutcome n s (.done t)) : stream t = stream s := by
  cases h <;> exact stream_congr (by simp) (by simp) (by simp) (by simp)

theorem Inv.runSequencer_stream {s t : State} (h : Inv s) (hr : runSequencer s = .next t) : stream s <+: stream t := by
  refine runSequencer_induction (P := fun _ u => Inv u ∧ stream s <+: stream u) (Q := fun t => stream s <+: stream t)
    ?_ ?_ ⟨h, List.prefix_refl _⟩ hr
  · rintro n u n' u' ⟨hu, hprefix⟩ hp
    exact ⟨hu.pass_again hp, hprefix.trans (hp.again_stream hu)⟩
  · rintro n u t ⟨-, hprefix⟩ hp
    rwa [hp.done_stream]

/-- Settles O24: a command that changes the stream writes a unit, flushes, or runs the sequencer, whose passes do the same. -/
theorem streamOnlyGrows : Obligations.StreamOnlyGrows := by
  intro i s t h hi he
  cases exec_outcome he with
  | reset => exact absurd rfl hi
  | @toneSent n clear no_session room =>
    rw [stream_congr (t := finishWith .ok _) rfl rfl rfl rfl]
    exact h.stream_prefix_writeUnit (gen := synth s.params s.arg0 n) (by rwa [synth_length])
  | flushed clear =>
    rw [stream_congr (t := finishWith .ok _) rfl rfl rfl rfl]
    exact h.stream_prefix_orbFlush
  | pumped clear session run => exact h.runSequencer_stream run
  | cancelled clear session run =>
    have hbegin : stream (beginCancel s) = stream s := stream_congr (by simp) (by simp) (by simp) (by simp)
    exact hbegin ▸ (h.after_beginCancel session).runSequencer_stream run
  | _ => exact stream_prefix_of_eq (by simp) (by simp) (by simp) (by simp)

/-! ## Sequences of units sent -/

/-- From `s` to `t` the units `gens` were made one after the other and written, and nothing else was (R163). -/
structure Emitted (gens : List (Word → List Byte × Word)) (s t : State) : Prop where
  frame : pumpFrame s t
  sinkLog : t.sinkLog =
    s.sinkLog ++ (cutHandoffs s.params.orbMin (pendingSamples s) (makeUnits gens s.phase).1).1
  pending : pendingSamples t = (cutHandoffs s.params.orbMin (pendingSamples s) (makeUnits gens s.phase).1).2
  phase : t.phase = (makeUnits gens s.phase).2
  orb : orbFrame (unitRuns s.params.orbMin s.orbSize.toNat (makeUnits gens s.phase).1) s t

theorem Emitted.of_untouched {s t : State} (frame : pumpFrame s t) (hlog : t.sinkLog = s.sinkLog) (horb : t.orb = s.orb)
    (hsize : t.orbSize = s.orbSize) (hphase : t.phase = s.phase) : Emitted [] s t := by
  have hpower : t.powerOns = s.powerOns := by rw [frame]
  exact {
    frame := frame
    sinkLog := by rw [hlog]; exact (List.append_nil _).symm
    pending := pendingSamples_congr horb hsize hpower
    phase := hphase
    orb := fun a _ => byteAt_congr (b := .orb) horb hpower (fun h => nomatch h) a }

theorem Emitted.refl (s : State) : Emitted [] s s := .of_untouched rfl rfl rfl rfl rfl

theorem Emitted.append {a b : List (Word → List Byte × Word)} {s t u : State} (h1 : Emitted a s t) (h2 : Emitted b t u) :
    Emitted (a ++ b) s u := by
  have hparams := pumpFrame_params h1.frame
  obtain ⟨frame2, sinkLog2, pending2, phase2, orb2⟩ := h2
  rw [hparams, h1.pending, h1.phase] at sinkLog2 pending2
  rw [h1.phase] at phase2
  rw [hparams, ← pendingSamples_length, h1.pending, h1.phase] at orb2
  refine ⟨pumpFrame_trans h1.frame frame2, ?_, ?_, ?_, fun x hx => ?_⟩
  · rw [makeUnits_append, cutHandoffs_append, sinkLog2, h1.sinkLog, List.append_assoc]
  · rw [makeUnits_append, cutHandoffs_append, pending2]
  · rw [makeUnits_append, phase2]
  · rw [← pendingSamples_length, makeUnits_append, unitRuns_append] at hx
    rw [orb2 x (fun run hrun => hx run (List.mem_append_right _ hrun)), h1.orb x (fun run hrun => ?_)]
    rw [← pendingSamples_length] at hrun
    exact hx run (List.mem_append_left _ hrun)

/-- One unit of the sequencer. -/
theorem Inv.emitted_sendUnit {s : State} (h : Inv s) {u : SessionUnit}
    (hroom : s.orbSize.toNat + (u.gen s.phase).1.length ≤ s.params.orbMax) : Emitted [u.gen] s (sendUnit u s) := by
  have hmax := h.params.orbMax_lt
  obtain ⟨hlog, hpending⟩ := writeUnit_cut (s := s) (gen := u.gen) h.orb_wf (by omega)
  have hsame : pendingSamples (sendUnit u s) = pendingSamples (writeUnit u.gen s) := pendingSamples_congr rfl rfl rfl
  exact {
    frame := pumpFrame_sendUnit u s
    sinkLog := hlog
    pending := hsame.trans hpending
    phase := by rw [sendUnit_frame]; rfl
    orb := fun a ha => by
      rw [byteAt_sendUnit]
      exact byteAt_storeBytes_outside (b := .orb) h.orb_wf _ a _ (ha _ (List.mem_singleton.mpr rfl)) }

theorem emitted_sinkPoll (s : State) : Emitted [] s (sinkPoll s).2 :=
  .of_untouched (pumpFrame_sinkPoll s) (by simp) (by simp) (by simp) (by simp)

/-- A unit the sequencer sends under the invariant. -/
theorem Inv.emitted_unit {s : State} (h : Inv s) {u : SessionUnit} (hu : unitAt s = some u) :
    Emitted [u.gen] s (sendUnit u (sinkPoll s).2) :=
  (emitted_sinkPoll s).append (h.after_sinkPoll.emitted_sendUnit (by
    rw [unitAt_gen_length hu, sinkPoll_orbSize, sinkPoll_params]
    exact h.unit_room hu))

end Sys2Proof.Machine

/-! Calls of the sequencer with a sink whose answers are known (42_modulator.md section 4). With ready polls the sequencer sends the units
of `unitAt` one after the other: `Sent` says what that leaves and that the loop does it, and it composes like `Emitted`. The preamble,
a run of data bytes and the closing sequence are such sequences; a call is one or two of them and an end. -/

namespace Sys2Proof.Machine

/-! ## Passes with a known end -/

theorem sinkPoll_fst_of_answer {s : State} {answer : Bool} {later : List Bool} (h : s.sinkAnswers = answer :: later) :
    (sinkPoll s).1 = answer := by
  rw [sinkPoll_of_answer h]

theorem sinkPoll_answers_of_answer {s : State} {answer : Bool} {later : List Bool} (h : s.sinkAnswers = answer :: later) :
    (sinkPoll s).2.sinkAnswers = later := by
  rw [sinkPoll_sinkAnswers, h, List.drop_one, List.tail_cons]

theorem sequencerPass_at_data {s : State} (h : s.status.mstate = .data) (n : Nat) : sequencerPass n s = dataPass n s := by
  simp only [sequencerPass, h]

/-- The end of the data: the call ends if it sent a byte, else it goes on to the trailer (R175). -/
theorem sequencerPass_dataSent {s : State} (hm : s.status.mstate = .data) (hc : s.cursor = s.sesLen) :
    sequencerPass 0 s = .again 0 (setMState .trailer s) := by
  rw [sequencerPass_at_data hm, dataPass, if_pos hc, if_neg (Nat.lt_irrefl 0)]

theorem sequencerPass_callEnds {n : Nat} {s : State} (hm : s.status.mstate = .data)
    (hend : if s.cursor = s.sesLen then 0 < n else n = Config.pumpMax) :
    sequencerPass n s = .done (finishWith .inProgress s) := by
  rw [sequencerPass_at_data hm, dataPass]
  split
  next hc => rw [if_pos (by rwa [if_pos hc] at hend)]
  next hc => rw [if_pos (by rwa [if_neg hc] at hend)]

theorem sequencerPass_drained {n : Nat} {s : State} (hm : s.status.mstate = .drain) (hz : s.orbSize = 0) :
    sequencerPass n s = .again n (setMState .finish s) := by
  simp only [sequencerPass, hm, drainPass, if_pos hz]

theorem sequencerPass_flushed {n : Nat} {s : State} (hm : s.status.mstate = .drain) (hz : s.orbSize ≠ 0)
    (hready : (sinkPoll s).1 = true) : sequencerPass n s = .again n (setMState .finish (orbFlush (sinkPoll s).2)) := by
  obtain ⟨-, hp⟩ | ⟨hbusy, -⟩ := pollOrBusy_cases s
  · simp only [sequencerPass, hm, drainPass, if_neg hz, hp]
  · simp [hready] at hbusy

theorem sequencerPass_ended {n : Nat} {s : State} (hm : s.status.mstate = .finish) (hready : (sinkPoll s).1 = true) :
    sequencerPass n s =
      .done (finishWith (if s.status.cancelling then .cancelled else .complete) (endSession (sinkPoll s).2)) := by
  obtain ⟨-, hp⟩ | ⟨hbusy, -⟩ := pollOrBusy_cases s
  · simp only [sequencerPass, hm, finishPass, hp, sinkPoll_status]
  · simp [hready] at hbusy

theorem mstate_of_unitAt {s : State} {u : SessionUnit} (h : unitAt s = some u) :
    s.status.mstate ≠ .drain ∧ s.status.mstate ≠ .finish ∧ s.status.mstate ≠ .idle ∧
      (s.status.mstate = .data → s.cursor ≠ s.sesLen ∧ u.bytes = 1) := by
  obtain ⟨hm, rfl⟩ | ⟨hm, rfl⟩ | ⟨hm, rfl⟩ | ⟨hm, hc, rfl⟩ | ⟨hm, rfl⟩ | ⟨hm, rfl⟩ := unitAt_cases h <;> simp_all

/-- With a ready sink a unit of the sequencer is sent (R163, R172). -/
theorem Inv.sequencerPass_sent {s : State} (h : Inv s) {u : SessionUnit} (hu : unitAt s = some u)
    (hready : (sinkPoll s).1 = true) {n : Nat} (hn : n + u.bytes ≤ Config.pumpMax) :
    sequencerPass n s = .again (n + u.bytes) (sendUnit u (sinkPoll s).2) := by
  obtain ⟨hdrain, hfinish, hidle, hdata⟩ := mstate_of_unitAt hu
  have hout := sequencerPass_outcome n s
  generalize sequencerPass n s = p at hout ⊢
  cases hout with
  | idle at_idle => exact absurd at_idle hidle
  | busy not_ready => simp [hready] at not_ready
  | unescaped at_data data_left ready sync => exact absurd sync (h.sessionByte_ne_sync at_data data_left)
  | overflow unit ready no_room => exact absurd (h.unit_room unit) (Nat.not_le.mpr no_room)
  | sent unit ready room below_bound => cases unit.symm.trans hu; rfl
  | callEnds at_data bound =>
    obtain ⟨hc, hb⟩ := hdata at_data
    rw [if_neg hc] at bound
    omega
  | dataSent at_data no_data first => exact absurd no_data (hdata at_data).1
  | drained at_drain empty => exact absurd at_drain hdrain
  | flushed at_drain pending ready => exact absurd at_drain hdrain
  | ended at_finish ready => exact absurd at_finish hfinish

/-! ## A busy sink (R173) -/

theorem finishWith_busy_sinkPoll {s : State} {later : List Bool} (h : s.sinkAnswers = false :: later) :
    finishWith .busy (sinkPoll s).2 = { s with
      sinkAnswers := later, polls := s.polls + 1, errinfo := 0
      status := { s.status with code := .busy, cause := .none } } := by
  rw [sinkPoll_of_answer h]
  rfl

/-- Where a pass polls, a busy sink ends the call. -/
theorem sequencerPass_of_busy {s : State} (hbusy : (sinkPoll s).1 = false) (hm : s.status.mstate ≠ .idle)
    (hdata : ¬ (s.status.mstate = .data ∧ s.cursor = s.sesLen)) (hdrain : ¬ (s.status.mstate = .drain ∧ s.orbSize = 0)) :
    sequencerPass 0 s = .done (finishWith .busy (sinkPoll s).2) := by
  have hout := sequencerPass_outcome 0 s
  generalize sequencerPass 0 s = p at hout ⊢
  cases hout with
  | busy not_ready => rfl
  | idle at_idle => exact absurd at_idle hm
  | callEnds at_data bound =>
    rw [if_neg (fun hc => hdata ⟨at_data, hc⟩)] at bound
    cases bound
  | dataSent at_data no_data first => exact absurd ⟨at_data, no_data⟩ hdata
  | drained at_drain empty => exact absurd ⟨at_drain, empty⟩ hdrain
  | unescaped at_data data_left ready sync => simp [hbusy] at ready
  | overflow unit ready no_room => simp [hbusy] at ready
  | sent unit ready room below_bound => simp [hbusy] at ready
  | flushed at_drain pending ready => simp [hbusy] at ready
  | ended at_finish ready => simp [hbusy] at ready

/-- A call whose first poll is busy stops where that poll is made (R171). -/
theorem runSequencer_of_busy {s : State} {later : List Bool} (hm : s.status.mstate ≠ .idle)
    (h : s.sinkAnswers = false :: later) :
    runSequencer s = .next { s with
      sinkAnswers := later, polls := s.polls + 1, errinfo := 0
      status := { s.status with
        code := .busy, cause := .none
        mstate :=
          if s.status.mstate = .data ∧ s.cursor = s.sesLen then .trailer else pollingPlace s.status.mstate s } } := by
  have hbusy : ∀ m, (sinkPoll (setMState m s)).1 = false := fun m => sinkPoll_fst_of_answer (s := setMState m s) h
  by_cases hdata : s.status.mstate = .data ∧ s.cursor = s.sesLen
  · have hlast : sequencerPass 0 (setMState .trailer s) = .done (finishWith .busy (sinkPoll (setMState .trailer s)).2) :=
      sequencerPass_of_busy (hbusy _) (by simp) (by simp) (by simp)
    rw [runSequencer, sequencerLoop_again (sequencerPass_dataSent hdata.1 hdata.2), sequencerLoop_done hlast,
      finishWith_busy_sinkPoll (s := setMState .trailer s) h, if_pos hdata]
    rfl
  rw [if_neg hdata, pollingPlace]
  by_cases hdrain : s.status.mstate = .drain ∧ s.orbSize = 0
  · have hlast : sequencerPass 0 (setMState .finish s) = .done (finishWith .busy (sinkPoll (setMState .finish s)).2) :=
      sequencerPass_of_busy (hbusy _) (by simp) (by simp) (by simp)
    rw [runSequencer, sequencerLoop_again (sequencerPass_drained hdrain.1 hdrain.2), sequencerLoop_done hlast,
      finishWith_busy_sinkPoll (s := setMState .finish s) h, if_pos hdrain]
    rfl
  · rw [runSequencer, sequencerLoop_done (sequencerPass_of_busy (sinkPoll_fst_of_answer h) hm hdata hdrain),
      finishWith_busy_sinkPoll h, if_neg hdrain]

/-- Settles O49: the two places passed without a poll are the end of the data and an empty drain. -/
theorem busyPumpKeepsItsPosition : Obligations.BusyPumpKeepsItsPosition := by
  intro s later hclear ht hm hbusy
  rw [exec_txPump_of_clear hclear, if_pos ht]
  exact runSequencer_of_busy hm hbusy

/-! ## Sequences of units sent with a ready sink -/

/-- From `s` the loop goes to `t` sending the units `gens`, every poll ready, and takes `bytes` data bytes. -/
structure Sent (gens : List (Word → List Byte × Word)) (bytes : Nat) (s t : State) : Prop where
  emitted : Emitted gens s t
  inv : Inv t
  answers : s.sinkAnswers = List.replicate gens.length true ++ t.sinkAnswers
  polls : t.polls = s.polls + gens.length
  sesLen : t.sesLen = s.sesLen
  cursor : t.cursor.toNat = s.cursor.toNat + bytes
  status : t.status = { s.status with mstate := t.status.mstate }
  runs : ∀ passes n, n + bytes ≤ Config.pumpMax →
    sequencerLoop (passes + gens.length) n s = sequencerLoop passes (n + bytes) t

theorem Sent.refl {s : State} (h : Inv s) : Sent [] 0 s s :=
  ⟨.refl s, h, rfl, rfl, rfl, rfl, rfl, fun _ _ _ => rfl⟩

theorem Sent.append {a b : List (Word → List Byte × Word)} {m n : Nat} {s t u : State} (h1 : Sent a m s t)
    (h2 : Sent b n t u) : Sent (a ++ b) (m + n) s u where
  emitted := h1.emitted.append h2.emitted
  inv := h2.inv
  answers := by rw [h1.answers, h2.answers, List.length_append, List.replicate_add, List.append_assoc]
  polls := by rw [h2.polls, h1.polls, List.length_append, Nat.add_assoc]
  sesLen := h2.sesLen.trans h1.sesLen
  cursor := by rw [h2.cursor, h1.cursor, Nat.add_assoc]
  status := by rw [h2.status, h1.status]
  runs := fun passes k hk => by
    rw [List.length_append, Nat.add_comm a.length, ← Nat.add_assoc, h1.runs _ _ (by omega), h2.runs _ _ (by omega),
      Nat.add_assoc]

/-- CURSOR takes the unit's byte without wrapping: it stays within SES_LEN. -/
theorem Inv.cursor_sendUnit {s : State} (h : Inv s) {u : SessionUnit} (hu : unitAt s = some u) :
    (sendUnit u (sinkPoll s).2).cursor.toNat = s.cursor.toNat + u.bytes := by
  have hbytes : u.bytes ≤ 1 := by
    obtain ⟨-, ⟨hb, -⟩ | ⟨hb, -⟩⟩ := unitAt_progress hu <;> omega
  have := h.params.txbMax_lt
  have := h.cursor_le
  have := h.sesLen_le
  rw [sendUnit_frame, sinkPoll_cursor, BitVec.toNat_add, BitVec.toNat_ofNat]
  omega

/-- One unit. -/
theorem Inv.sent_unit {s : State} (h : Inv s) {u : SessionUnit} (hu : unitAt s = some u) {later : List Bool}
    (hans : s.sinkAnswers = true :: later) :
    ∃ t, Sent [u.gen] u.bytes s t ∧ t.sinkAnswers = later ∧ t.status.mstate = u.next := by
  have hlater : (sendUnit u (sinkPoll s).2).sinkAnswers = later := by
    rw [sendUnit_frame]
    exact sinkPoll_answers_of_answer hans
  refine ⟨_, ⟨h.emitted_unit hu, h.after_sendUnit hu, ?_, ?_, ?_, h.cursor_sendUnit hu, ?_, fun passes n hn => ?_⟩, hlater, rfl⟩
  · rw [hlater, hans]; rfl
  · rw [sendUnit_frame, sinkPoll_polls]; rfl
  · rw [sendUnit_frame, sinkPoll_sesLen]
  · rw [sendUnit_frame, sinkPoll_status]
  · exact sequencerLoop_again (h.sequencerPass_sent hu (sinkPoll_fst_of_answer hans) hn)

/-- The leader and the two sync frames (R167, R168, R178). -/
theorem Inv.sent_preamble {s : State} (h : Inv s) (hm : s.status.mstate = .leader) {later : List Bool}
    (hans : s.sinkAnswers = true :: true :: true :: later) :
    ∃ t, Sent [leaderTone s.params, syncFrame s.params s.cfg, syncFrame s.params s.cfg] 0 s t ∧
      t.sinkAnswers = later ∧ t.status.mstate = .data := by
  have hframe {u : State} (hu : pumpFrame s u) : u.params = s.params ∧ u.cfg = s.cfg := by
    rw [hu]
    exact ⟨rfl, rfl⟩
  obtain ⟨t1, hs1, ha1, hm1⟩ := h.sent_unit (u := ⟨leaderNs s.params, leaderTone s.params, .sync0, 0⟩)
    (by simp only [unitAt, hm]) hans
  obtain ⟨hp1, hc1⟩ := hframe hs1.emitted.frame
  obtain ⟨t2, hs2, ha2, hm2⟩ := hs1.inv.sent_unit (u := ⟨frameNs s.params, syncFrame s.params s.cfg, .sync1, 0⟩)
    (by simp only [unitAt, hm1, hp1, hc1]) ha1
  obtain ⟨hp2, hc2⟩ := hframe (hs1.append hs2).emitted.frame
  obtain ⟨t3, hs3, ha3, hm3⟩ := hs2.inv.sent_unit (u := ⟨frameNs s.params, syncFrame s.params s.cfg, .data, 0⟩)
    (by simp only [unitAt, hm2, hp2, hc2]) ha2
  exact ⟨t3, (hs1.append hs2).append hs3, ha3, hm3⟩

/-! ## A run of data bytes (R179, R180) -/

theorem sessionBytes_length (s : State) : (sessionBytes s).length = s.sesLen.toNat := bytesAt_length ..

theorem sessionBytes_of_pumpFrame {s t : State} (h : pumpFrame s t) (hlen : t.sesLen = s.sesLen) :
    sessionBytes t = sessionBytes s := by
  have htxb : t.txb = s.txb ∧ t.powerOns = s.powerOns := by
    rw [h]
    exact ⟨rfl, rfl⟩
  rw [sessionBytes, hlen]
  exact bytesAt_congr fun a _ _ => byteAt_congr (b := .txb) htxb.1 htxb.2 (fun hb => nomatch hb) a

/-- The bytes still to send: the session's next byte, and then those from CURSOR + 1 on. -/
theorem drop_sessionBytes {s : State} (h : s.cursor.toNat < s.sesLen.toNat) :
    (sessionBytes s).drop s.cursor.toNat = sessionByte s :: (sessionBytes s).drop (s.cursor.toNat + 1) := by
  rw [List.drop_eq_getElem_cons (by rwa [sessionBytes_length])]
  congr 1
  have hread := bytesAt_getElem .txb 0 s.sesLen.toNat s.cursor.toNat s h
  rwa [Nat.zero_add] at hread

theorem unitAt_of_data {s : State} (hm : s.status.mstate = .data) (hlt : s.cursor.toNat < s.sesLen.toNat) :
    unitAt s = some ⟨frameNs s.params, dataFrame s.params s.cfg (sessionByte s), .data, 1⟩ := by
  have hc : s.cursor ≠ s.sesLen := fun hc => by rw [hc] at hlt; omega
  simp only [unitAt, hm, if_neg hc]

/-- `m` data frames in a row. -/
theorem Inv.sent_data {s : State} (h : Inv s) (hm : s.status.mstate = .data) {m : Nat} {later : List Bool}
    (hle : s.cursor.toNat + m ≤ s.sesLen.toNat) (hans : readyFor m later s) :
    ∃ t, Sent (dataUnits s.params s.cfg (((sessionBytes s).drop s.cursor.toNat).take m)) m s t ∧
      t.sinkAnswers = later ∧ t.status.mstate = .data := by
  induction m generalizing s with
  | zero => exact ⟨s, .refl h, hans, hm⟩
  | succ m ih =>
    obtain ⟨t, hs, ha, hmt⟩ := h.sent_unit (unitAt_of_data hm (by omega)) (later := List.replicate m true ++ later) hans
    have hcursor : t.cursor.toNat = s.cursor.toNat + 1 := hs.cursor
    obtain ⟨u, hu, hau, hmu⟩ := ih hs.inv hmt (by rw [hcursor, hs.sesLen]; omega) ha
    refine ⟨u, ?_, hau, hmu⟩
    have hframe : t.params = s.params ∧ t.cfg = s.cfg := by
      rw [hs.emitted.frame]
      exact ⟨rfl, rfl⟩
    rw [hframe.1, hframe.2, sessionBytes_of_pumpFrame hs.emitted.frame hs.sesLen, hcursor] at hu
    rw [drop_sessionBytes (by omega), List.take_succ_cons, Nat.add_comm m]
    exact hs.append hu

theorem dataUnits_length (p : Params) (cfg : Word) (bytes : List Byte) : (dataUnits p cfg bytes).length = bytes.length :=
  List.length_map _

/-- A call that starts at a data byte sends data up to the bound or the end, and ends (R174, R180). -/
theorem Inv.data_call {s : State} (h : Inv s) (hm : s.status.mstate = .data) (hlt : s.cursor.toNat < s.sesLen.toNat)
    {m : Nat} (hmin : m = min 128 (s.sesLen.toNat - s.cursor.toNat)) {later : List Bool} (hans : readyFor m later s) :
    ∃ t, Sent (dataUnits s.params s.cfg (((sessionBytes s).drop s.cursor.toNat).take m)) m s t ∧
      t.sinkAnswers = later ∧ t.status.mstate = .data ∧
      ∀ passes, sequencerLoop (passes + 1 + m) 0 s = .next (finishWith .inProgress t) := by
  obtain ⟨t, hs, ha, hmt⟩ := h.sent_data hm (m := m) (by omega) hans
  refine ⟨t, hs, ha, hmt, fun passes => ?_⟩
  have hlen : (dataUnits s.params s.cfg (((sessionBytes s).drop s.cursor.toNat).take m)).length = m := by
    rw [dataUnits_length, List.length_take, List.length_drop, sessionBytes_length]
    omega
  have hend : if t.cursor = t.sesLen then 0 < 0 + m else 0 + m = Config.pumpMax := by
    have hcursor := hs.cursor
    split
    next => omega
    next hc =>
      have hne : t.cursor.toNat ≠ t.sesLen.toNat := fun he => hc (BitVec.eq_of_toNat_eq he)
      rw [hs.sesLen] at hne
      simp only [Config.pumpMax]
      omega
  have hrun := hs.runs (passes + 1) 0 (by simp only [Config.pumpMax]; omega)
  rw [hlen] at hrun
  rw [hrun, sequencerLoop_done (sequencerPass_callEnds hmt hend)]

/-- What a call that ends in M_DATA reports and leaves. -/
theorem Sent.call_result {gens : List (Word → List Byte × Word)} {bytes : Nat} {s u : State} (h : Sent gens bytes s u)
    (hm : u.status.mstate = .data) :
    let t := finishWith .inProgress u
    let units := makeUnits gens s.phase
    pumpFrame s t ∧ t.status = { s.status with code := .inProgress, cause := .none, mstate := .data } ∧ t.errinfo = 0 ∧
      t.sesLen = s.sesLen ∧ t.cursor.toNat = s.cursor.toNat + bytes ∧ t.sinkAnswers = u.sinkAnswers ∧
      t.polls = s.polls + gens.length ∧
      t.sinkLog = s.sinkLog ++ (cutHandoffs s.params.orbMin (pendingSamples s) units.1).1 ∧
      pendingSamples t = (cutHandoffs s.params.orbMin (pendingSamples s) units.1).2 ∧
      t.phase = units.2 ∧ orbFrame (unitRuns s.params.orbMin s.orbSize.toNat units.1) s t := by
  have hstatus := h.status
  rw [hm] at hstatus
  exact ⟨pumpFrame_trans h.emitted.frame rfl, by rw [finishWith_status, hstatus], finishWith_errinfo _ _, h.sesLen, h.cursor,
    rfl, h.polls, h.emitted.sinkLog, h.emitted.pending, h.emitted.phase, h.emitted.orb⟩

/-- The passes of one call cover `a` units, a data run of `m` bytes and the pass that ends the call. -/
theorem passLimit_split {a m : Nat} (ha : a ≤ 3) (hm : m ≤ 128) : passLimit = (passLimit - (m + 1 + a)) + 1 + m + a := by
  have hlimit : passLimit = 137 := rfl
  omega

/-- Settles O46: the preamble and then a data call. -/
theorem firstPumpSendsPreambleAndData : Obligations.FirstPumpSendsPreambleAndData := by
  intro s later h hclear hm m units hready
  have ht : s.status.transmitting = true := h.transmitting_of_ne_idle (by simp [hm])
  have hcursor : s.cursor.toNat = 0 := by rw [h.preamble (.inl hm)]; rfl
  obtain ⟨-, hlen⟩ := h.session ht
  have hans : s.sinkAnswers = true :: true :: true :: (List.replicate m true ++ later) := by
    rw [hready, Nat.add_comm]
    rfl
  obtain ⟨u, hpre, hau, hmu⟩ := h.sent_preamble hm hans
  have hcu : u.cursor.toNat = 0 := hpre.cursor.trans hcursor
  have hframe : u.params = s.params ∧ u.cfg = s.cfg := by
    rw [hpre.emitted.frame]
    exact ⟨rfl, rfl⟩
  obtain ⟨v, hdata, hav, hmv, hrun⟩ := hpre.inv.data_call hmu (by rw [hcu, hpre.sesLen]; omega) (m := m)
    (by rw [hcu, hpre.sesLen, Nat.sub_zero]) hau
  rw [hframe.1, hframe.2, sessionBytes_of_pumpFrame hpre.emitted.frame hpre.sesLen, hcu, List.drop_zero] at hdata
  have hsent := hpre.append hdata
  have hcount : (dataUnits s.params s.cfg ((sessionBytes s).take m)).length = m := by
    rw [dataUnits_length, List.length_take, sessionBytes_length]
    omega
  obtain ⟨hfr, hst, herr, hses, hcur, hsa, hpo, hlog, hpend, hph, horb⟩ := hsent.call_result hmv
  refine ⟨finishWith .inProgress v, ?_, hfr, hst, herr, hses, ?_, hsa.trans hav, ?_, hlog, hpend, hph, horb⟩
  · have hfirst := hpre.runs ((passLimit - (m + 1 + 3)) + 1 + m) 0 (Nat.zero_le _)
    rw [exec_txPump_of_clear hclear, if_pos ht, runSequencer, passLimit_split (Nat.le_refl 3) (Nat.min_le_left 128 _)]
    exact hfirst.trans (hrun _)
  · rw [hcur, hcursor]; omega
  · rw [hpo, List.length_append, hcount]
    simp only [List.length_cons, List.length_nil]
    omega

/-- Settles O47: a data call. -/
theorem middlePumpSendsData : Obligations.MiddlePumpSendsData := by
  intro s later h hclear hm hne m units hready
  have ht : s.status.transmitting = true := h.transmitting_of_ne_idle (by simp [hm])
  have hlt : s.cursor.toNat < s.sesLen.toNat := by
    have hle := h.cursor_le
    have hne' : s.cursor.toNat ≠ s.sesLen.toNat := fun he => hne (BitVec.eq_of_toNat_eq he)
    omega
  obtain ⟨v, hdata, hav, hmv, hrun⟩ := h.data_call hm hlt rfl hready
  have hcount : (dataUnits s.params s.cfg (((sessionBytes s).drop s.cursor.toNat).take m)).length = m := by
    rw [dataUnits_length, List.length_take, List.length_drop, sessionBytes_length]
    omega
  obtain ⟨hfr, hst, herr, hses, hcur, hsa, hpo, hlog, hpend, hph, horb⟩ := hdata.call_result hmv
  refine ⟨finishWith .inProgress v, ?_, hfr, hst.trans (by rw [← hm]), herr, hses, hcur, hsa.trans hav, by rw [hpo, hcount], hlog,
    hpend, hph, horb⟩
  rw [exec_txPump_of_clear hclear, if_pos ht, runSequencer, passLimit_split (Nat.zero_le 3) (Nat.min_le_left 128 _)]
  exact hrun _

end Sys2Proof.Machine

/-! The end of a session with a ready sink (R181 to R183): the units of `closingUnits`, the final flush, and the completion poll.
A pump that finds the closing sequence under way and a TX_CANCEL both run it, from different places. -/

namespace Sys2Proof.Machine

/-! ## The final flush -/

/-- `v` is `u` in M_FINISH, all pending samples flushed (R181, R202). -/
structure Flushed (u v : State) : Prop where
  frame : pumpFrame u v
  status : v.status = { u.status with mstate := .finish }
  orbSize : v.orbSize = 0
  phase : v.phase = u.phase
  answers : v.sinkAnswers = u.sinkAnswers.drop (if pendingSamples u = [] then 0 else 1)
  polls : v.polls = u.polls + if pendingSamples u = [] then 0 else 1
  sinkLog : v.sinkLog = u.sinkLog ++ flushBlock u.params.orbMin (pendingSamples u)
  orb : orbFrame (paddingRuns u.params.orbMin u.orbSize.toNat) u v

/-- With nothing pending there is no hand-off and no poll. -/
theorem flushed_of_empty {u : State} (hz : u.orbSize = 0) : Flushed u (setMState .finish u) := by
  have hnil := (pendingSamples_eq_nil_iff u).mpr hz
  exact {
    frame := rfl, status := rfl, orbSize := hz, phase := rfl
    answers := by rw [if_pos hnil]; rfl
    polls := by rw [if_pos hnil]; rfl
    sinkLog := by rw [flushBlock, if_pos hnil]; exact (List.append_nil _).symm
    orb := fun _ _ => rfl }

theorem Inv.flushed_of_pending {u : State} (h : Inv u) (hz : u.orbSize ≠ 0) :
    Flushed u (setMState .finish (orbFlush (sinkPoll u).2)) := by
  have hne : pendingSamples u ≠ [] := fun he => hz ((pendingSamples_eq_nil_iff u).mp he)
  have hpoll := h.after_sinkPoll
  have hset : pumpFrame (orbFlush (sinkPoll u).2) (setMState .finish (orbFlush (sinkPoll u).2)) := rfl
  refine {
    frame := pumpFrame_trans (pumpFrame_trans (pumpFrame_sinkPoll u) (pumpFrame_orbFlush _)) hset
    status := by rw [setMState_status, orbFlush_frame, sinkPoll_status]
    orbSize := by rw [setMState_orbSize, orbFlush_frame]
    phase := by rw [setMState_phase, orbFlush_frame, sinkPoll_phase]
    answers := by rw [setMState_sinkAnswers, orbFlush_frame, sinkPoll_sinkAnswers, if_neg hne]
    polls := by rw [setMState_polls, orbFlush_frame, sinkPoll_polls, if_neg hne]
    sinkLog := ?_, orb := fun a ha => ?_ }
  · have hpending : pendingSamples (sinkPoll u).2 = pendingSamples u := pendingSamples_congr (by simp) (by simp) (by simp)
    rw [setMState_sinkLog, hpoll.orbFlush_sinkLog, sinkPoll_sinkLog, sinkPoll_params, hpending, flushBlock, if_neg hne,
      pendingSamples_length, sinkPoll_orbSize]
  · have hsize : u.orbSize.toNat ≠ 0 := fun he => hz (BitVec.eq_of_toNat_eq he)
    have hlt := h.orbSize_lt
    have hrun := ha (u.orbSize.toNat, u.params.orbMin - u.orbSize.toNat) (by rw [paddingRuns, if_neg hsize]; simp)
    have houtside : a < (sinkPoll u).2.orbSize.toNat ∨ (sinkPoll u).2.params.orbMin ≤ a := by
      rw [sinkPoll_orbSize, sinkPoll_params]
      omega
    calc byteAt .orb a (setMState .finish (orbFlush (sinkPoll u).2))
        = byteAt .orb a (orbFlush (sinkPoll u).2) := rfl
      _ = byteAt .orb a (sinkPoll u).2 := byteAt_orbFlush_outside hpoll.orbSize_lt hpoll.orb_wf houtside
      _ = byteAt .orb a u := byteAt_sinkPoll ..

/-- In M_FINISH the flush has been made. -/
theorem Inv.flushed_at_finish {u : State} (h : Inv u) (hm : u.status.mstate = .finish) : Flushed u u := by
  have hkeep : setMState .finish u = u := by rw [← hm]; rfl
  exact hkeep ▸ flushed_of_empty (h.finish_drained hm)

/-! ## The end of the session -/

/-- The state a closing call leaves when the last flush has left `v`: the completion poll, and the session over (R172, R183). -/
def sessionEnded (v : State) : State :=
  finishWith (if v.status.cancelling then .cancelled else .complete) (endSession (sinkPoll v).2)

/-- From M_DRAIN or M_FINISH a ready sink ends the session. -/
theorem Inv.drain_ends {u : State} (h : Inv u) (hm : u.status.mstate = .drain ∨ u.status.mstate = .finish) {later : List Bool}
    (hans : readyFor (if pendingSamples u = [] then 1 else 2) later u) :
    ∃ v, Flushed u v ∧ v.sinkAnswers = true :: later ∧
      ∀ passes n, sequencerLoop (passes + 2) n u = .next (sessionEnded v) := by
  have hlast {v : State} (hv : Flushed u v) (hav : v.sinkAnswers = true :: later) (n : Nat) :
      sequencerPass n v = .done (sessionEnded v) :=
    sequencerPass_ended (by rw [hv.status]) (sinkPoll_fst_of_answer hav)
  have hanswers {v : State} (hv : Flushed u v) : v.sinkAnswers = true :: later := by
    rw [hv.answers, hans]
    split <;> rfl
  obtain hdrain | hfinish := hm
  · by_cases hz : u.orbSize = 0
    · have hv := flushed_of_empty hz
      refine ⟨_, hv, hanswers hv, fun passes n => ?_⟩
      rw [sequencerLoop_again (sequencerPass_drained hdrain hz), sequencerLoop_done (hlast hv (hanswers hv) n)]
    · have hv := h.flushed_of_pending hz
      have hne : pendingSamples u ≠ [] := fun he => hz ((pendingSamples_eq_nil_iff u).mp he)
      rw [readyFor, if_neg hne] at hans
      refine ⟨_, hv, hanswers hv, fun passes n => ?_⟩
      rw [sequencerLoop_again (sequencerPass_flushed hdrain hz (sinkPoll_fst_of_answer hans)),
        sequencerLoop_done (hlast hv (hanswers hv) n)]
  · have hv := h.flushed_at_finish hfinish
    exact ⟨u, hv, hanswers hv, fun passes n => sequencerLoop_done (hlast hv (hanswers hv) n)⟩

/-- The trailer, and in a cancelled session the flush tone, where they are still to come (R181, R182). -/
theorem Inv.sent_closing {s : State} (h : Inv s) (hc : closing s.status.mstate = true) {later : List Bool}
    (hans : readyFor (closingUnits s.params s.status.cancelling s.status.mstate).length later s) :
    ∃ u, Sent (closingUnits s.params s.status.cancelling s.status.mstate) 0 s u ∧ u.sinkAnswers = later ∧
      (u.status.mstate = .drain ∨ u.status.mstate = .finish) := by
  have hflush {w : State} (hw : Inv w) (hm : w.status.mstate = .flushTone) (haw : w.sinkAnswers = true :: later) :
      ∃ u, Sent [Machine.flushTone w.params] 0 w u ∧ u.sinkAnswers = later ∧ u.status.mstate = .drain :=
    hw.sent_unit (u := ⟨w.params.flushNs, Machine.flushTone w.params, .drain, 0⟩) (by simp only [unitAt, hm]) haw
  cases hm : s.status.mstate with
  | trailer =>
    rw [hm] at hans
    have hunit : unitAt s =
        some ⟨trailerNs s.params, trailerTone s.params, if s.status.cancelling then .flushTone else .drain, 0⟩ := by
      simp only [unitAt, hm]
    cases hcancel : s.status.cancelling with
    | false =>
      rw [hcancel] at hans hunit
      obtain ⟨u, hs, ha, hmu⟩ := h.sent_unit hunit hans
      exact ⟨u, hs, ha, .inl hmu⟩
    | true =>
      rw [hcancel] at hans hunit
      obtain ⟨w, hs, ha, hmw⟩ := h.sent_unit hunit hans
      obtain ⟨u, hs2, ha2, hmu⟩ := hflush hs.inv hmw ha
      rw [pumpFrame_params hs.emitted.frame] at hs2
      exact ⟨u, hs.append hs2, ha2, .inl hmu⟩
  | flushTone =>
    rw [hm] at hans
    obtain ⟨u, hs, ha, hmu⟩ := hflush h hm hans
    exact ⟨u, hs, ha, .inl hmu⟩
  | drain => rw [hm] at hans; exact ⟨s, .refl h, hans, .inl hm⟩
  | finish => rw [hm] at hans; exact ⟨s, .refl h, hans, .inr hm⟩
  | idle | leader | sync0 | sync1 | data => rw [hm] at hc; cases hc

/-- The polls a closing call makes: one for each unit, one for a flush that has something to do, and the completion poll. -/
def closingPolls (gens : List (Word → List Byte × Word)) (s : State) : Nat :=
  (makeUnits gens s.phase).1.length +
    if (cutHandoffs s.params.orbMin (pendingSamples s) (makeUnits gens s.phase).1).2 = [] then 1 else 2

/-- How a call that closes a session leaves it, `gens` being the units that were still to come (R181 to R183). -/
structure SessionClosed (gens : List (Word → List Byte × Word)) (code : Code) (later : List Bool) (s t : State) : Prop where
  frame : pumpFrame s t
  status : t.status = { s.status with
    code := code, cause := .none, transmitting := false, cancelling := false, mstate := .idle }
  errinfo : t.errinfo = 0
  sesLen : t.sesLen = 0
  cursor : t.cursor = 0
  orbSize : t.orbSize = 0
  phase : t.phase = (makeUnits gens s.phase).2
  answers : t.sinkAnswers = later
  polls : t.polls = s.polls + closingPolls gens s
  sinkLog : t.sinkLog = s.sinkLog ++ (cutHandoffs s.params.orbMin (pendingSamples s) (makeUnits gens s.phase).1).1 ++
    flushBlock s.params.orbMin (cutHandoffs s.params.orbMin (pendingSamples s) (makeUnits gens s.phase).1).2
  orb : orbFrame (unitRuns s.params.orbMin s.orbSize.toNat (makeUnits gens s.phase).1 ++
    paddingRuns s.params.orbMin (cutHandoffs s.params.orbMin (pendingSamples s) (makeUnits gens s.phase).1).2.length) s t

theorem sessionEnded_frame (v : State) : sessionEnded v = { v with
    sinkAnswers := v.sinkAnswers.drop 1, polls := v.polls + 1, errinfo := 0, sesLen := 0, cursor := 0
    status := { v.status with
      code := if v.status.cancelling then .cancelled else .complete
      cause := .none, transmitting := false, cancelling := false, mstate := .idle } } := by
  rw [sessionEnded, sinkPoll_snd]
  cases v.status.cancelling <;> rfl

/-- Units sent, the flush, and the end of the session. -/
theorem Sent.closed {gens : List (Word → List Byte × Word)} {bytes : Nat} {later : List Bool} {s u v : State}
    (h : Sent gens bytes s u) (hv : Flushed u v) (hav : v.sinkAnswers = true :: later) :
    SessionClosed gens (if s.status.cancelling then .cancelled else .complete) later s (sessionEnded v) := by
  have hparams := pumpFrame_params h.emitted.frame
  have hcount : (if pendingSamples u = [] then 0 else 1) + 1 = if pendingSamples u = [] then 1 else 2 := by split <;> rfl
  obtain ⟨hframe, hstatus, horbSize, hphase, -, hpolls, hlog, horb⟩ := hv
  rw [← pendingSamples_length] at horb
  rw [hparams, h.emitted.pending] at hlog horb
  rw [h.emitted.pending] at hpolls hcount
  have hended := sessionEnded_frame v
  have hfields : (sessionEnded v).sinkLog = v.sinkLog ∧ (sessionEnded v).orb = v.orb ∧ (sessionEnded v).powerOns = v.powerOns := by
    rw [hended]
    exact ⟨rfl, rfl, rfl⟩
  exact {
    frame := pumpFrame_trans (pumpFrame_trans h.emitted.frame hframe) (by rw [hended]; rfl)
    status := by rw [hended, hstatus, h.status]
    errinfo := by rw [hended]
    sesLen := by rw [hended]
    cursor := by rw [hended]
    orbSize := by rw [hended]; exact horbSize
    phase := by rw [hended]; exact hphase.trans h.emitted.phase
    answers := by rw [hended, hav]; rfl
    polls := by
      rw [closingPolls, makeUnits_length, ← hcount, hended]
      simp only [hpolls, h.polls]
      omega
    sinkLog := by rw [hfields.1, hlog, h.emitted.sinkLog]
    orb := fun a ha => by
      rw [byteAt_congr (b := .orb) hfields.2.1 hfields.2.2 (fun hb => nomatch hb),
        horb a (fun run hrun => ha run (List.mem_append_right _ hrun)),
        h.emitted.orb a (fun run hrun => ha run (List.mem_append_left _ hrun))] }

/-- From any place of the closing sequence a ready sink ends the session, in at most four passes. -/
theorem Inv.closing_ends {s : State} (h : Inv s) (hc : closing s.status.mstate = true) {later : List Bool}
    (hans : readyFor (closingPolls (closingUnits s.params s.status.cancelling s.status.mstate) s) later s) :
    ∃ t, SessionClosed (closingUnits s.params s.status.cancelling s.status.mstate)
        (if s.status.cancelling then .cancelled else .complete) later s t ∧
      ∀ passes, 4 ≤ passes → sequencerLoop passes 0 s = .next t := by
  generalize hgens : closingUnits s.params s.status.cancelling s.status.mstate = gens at hans
  have hshort : gens.length ≤ 2 := by
    rw [← hgens]
    cases s.status.mstate <;> cases s.status.cancelling <;> simp [closingUnits]
  rw [closingPolls, makeUnits_length, readyFor, List.replicate_add, List.append_assoc] at hans
  have hsent := h.sent_closing hc (hgens ▸ hans)
  rw [hgens] at hsent
  obtain ⟨u, hs, hau, hmu⟩ := hsent
  rw [← hs.emitted.pending] at hau
  obtain ⟨v, hv, hav, hrun⟩ := hs.inv.drain_ends hmu hau
  refine ⟨sessionEnded v, hs.closed hv hav, fun passes hpasses => ?_⟩
  obtain ⟨k, rfl⟩ : ∃ k, passes = k + 2 + gens.length := ⟨passes - 2 - gens.length, by omega⟩
  rw [hs.runs _ _ (Nat.zero_le _), hrun]

/-- A start that differs in its status only, FAULT and FCAUSE as before, ends the same. -/
theorem SessionClosed.of_restatus {gens : List (Word → List Byte × Word)} {code : Code} {later : List Bool} {s s' t : State}
    (hs : s' = { s with status := s'.status }) (hfault : s'.status.fault = s.status.fault)
    (hfcause : s'.status.fcause = s.status.fcause) (h : SessionClosed gens code later s' t) :
    SessionClosed gens code later s t := by
  have hstatus := h.status
  simp only [hfault, hfcause] at hstatus
  obtain ⟨st, rfl⟩ : ∃ st, s' = { s with status := st } := ⟨_, hs⟩
  exact { h with
    frame := pumpFrame_trans (t := { s with status := st }) rfl h.frame
    status := hstatus }

/-- A call closes the session from the closing sequence, or from the end of the data, where its first pass goes to M_TRAILER
without a poll (R175, R181). -/
theorem Inv.runSequencer_closes {s : State} (h : Inv s)
    (hplace : closing s.status.mstate = true ∨ (s.status.mstate = .data ∧ s.cursor = s.sesLen)) {later : List Bool}
    (hans : readyFor (closingPolls (closingUnits s.params s.status.cancelling s.status.mstate) s) later s) :
    ∃ t, SessionClosed (closingUnits s.params s.status.cancelling s.status.mstate)
        (if s.status.cancelling then .cancelled else .complete) later s t ∧ runSequencer s = .next t := by
  obtain hc | ⟨hm, hcursor⟩ := hplace
  · obtain ⟨t, hclosed, hrun⟩ := h.closing_ends hc hans
    exact ⟨t, hclosed, hrun _ (by decide)⟩
  · have hnext : Inv (setMState .trailer s) := h.pass_again (.dataSent (n := 0) hm hcursor rfl)
    have hsame : closingUnits s.params s.status.cancelling s.status.mstate =
        closingUnits s.params s.status.cancelling .trailer := by rw [hm]; rfl
    rw [hsame] at hans ⊢
    obtain ⟨t, hclosed, hrun⟩ := hnext.closing_ends rfl hans
    refine ⟨t, .of_restatus (s' := setMState .trailer s) rfl rfl rfl hclosed, ?_⟩
    rw [runSequencer, sequencerLoop_again (sequencerPass_dataSent hm hcursor), hrun _ (by decide)]

/-- Settles O48: a pump that is a closing call. -/
theorem lastPumpCompletesTheSession : Obligations.LastPumpCompletesTheSession := by
  intro s later h hclear hplace units cut count hready
  have ht : s.status.transmitting = true := h.transmitting_of_ne_idle (fun hm => by simp [hm, closing] at hplace)
  obtain ⟨t, hclosed, hrun⟩ := h.runSequencer_closes hplace hready
  obtain ⟨hframe, hstatus, herr, hses, hcur, hsize, hphase, hans, hpolls, hlog, horb⟩ := hclosed
  refine ⟨t, ?_, hframe, hstatus, herr, hses, hcur, hsize, hphase, hans, hpolls, hlog, horb⟩
  rw [exec_txPump_of_clear hclear, if_pos ht, hrun]

/-! ## TX_CANCEL (R182) -/

/-- TX_CANCEL of a session goes on in the closing sequence, CANCELLING set. -/
theorem Inv.beginCancel_eq {s : State} (h : Inv s) (ht : s.status.transmitting = true) :
    beginCancel s = { s with status := { s.status with
      cancelling := true, mstate := if closing s.status.mstate then s.status.mstate else .trailer } } := by
  unfold beginCancel
  split
  next hcancel => rw [if_pos (h.cancelling_closing hcancel), ← hcancel]
  next =>
    have hidle : s.status.mstate ≠ .idle := fun hm => by simp [h.idle_iff.mpr hm] at ht
    cases hm : s.status.mstate
    case idle => exact absurd hm hidle
    all_goals rfl

/-- The closing units of a cancelled session do not depend on where before the trailer it was cancelled. -/
theorem closingUnits_of_cancel (p : Params) {m : MState} (hm : m ≠ .idle) :
    closingUnits p true (if closing m then m else .trailer) = closingUnits p true m := by
  cases m
  case idle => exact absurd rfl hm
  all_goals rfl

theorem closing_of_cancel (m : MState) : closing (if closing m then m else .trailer) = true := by
  split
  next hc => exact hc
  next => rfl

/-- Settles O51: TX_CANCEL is a closing call of the cancelled session. -/
theorem cancelDrainsAndEndsTheSession : Obligations.CancelDrainsAndEndsTheSession := by
  intro s later h hclear ht units cut count
  have hidle : s.status.mstate ≠ .idle := fun hm => by simp [h.idle_iff.mpr hm] at ht
  have hbegin := h.beginCancel_eq ht
  have hcancelling : (beginCancel s).status.cancelling = true := by rw [hbegin]
  have hmstate : (beginCancel s).status.mstate = if closing s.status.mstate then s.status.mstate else .trailer := by rw [hbegin]
  have hclosing : closing (beginCancel s).status.mstate = true := hmstate ▸ closing_of_cancel _
  rw [exec_txCancel_of_clear hclear, if_pos ht]
  constructor
  · intro hready
    have hunits : closingUnits (beginCancel s).params (beginCancel s).status.cancelling (beginCancel s).status.mstate =
        closingUnits s.params true s.status.mstate := by
      rw [beginCancel_params, hcancelling, hmstate, closingUnits_of_cancel _ hidle]
    have hpending : pendingSamples (beginCancel s) = pendingSamples s := pendingSamples_congr (by simp) (by simp) (by simp)
    have hpolls : readyFor (closingPolls (closingUnits s.params true s.status.mstate) (beginCancel s)) later (beginCancel s) := by
      rwa [closingPolls, readyFor, hpending, beginCancel_params, beginCancel_phase, beginCancel_sinkAnswers]
    obtain ⟨t, hclosed, hrun⟩ := (h.after_beginCancel ht).runSequencer_closes (.inl hclosing) (hunits ▸ hpolls)
    rw [hunits, hcancelling] at hclosed
    obtain ⟨hframe, hstatus, herr, hses, hcur, hsize, hphase, hans, hpolls, hlog, horb⟩ :=
      hclosed.of_restatus (s := s) (by rw [hbegin]) (by rw [hbegin]) (by rw [hbegin])
    exact ⟨t, hrun, hframe, hstatus, herr, hses, hcur, hsize, hphase, hans, hpolls, hlog, horb⟩
  · intro hbusy
    have hdata : ¬ ((beginCancel s).status.mstate = .data ∧ (beginCancel s).cursor = (beginCancel s).sesLen) :=
      fun hd => by simp [hd.1, closing] at hclosing
    have hplace : pollingPlace (beginCancel s).status.mstate (beginCancel s) =
        if closing s.status.mstate then pollingPlace s.status.mstate s else .trailer := by
      rw [hmstate, pollingPlace, beginCancel_orbSize]
      split <;> rfl
    rw [runSequencer_of_busy (beginCancel_mstate_ne_idle hidle) (by rwa [beginCancel_sinkAnswers]), if_neg hdata, hplace,
      hbegin]

end Sys2Proof.Machine

/-! A session as a whole (42_modulator.md sections 3 and 5): how many pumps it takes with a ready sink (R175), and the stream of samples
it hands off whatever the sink answers (R185). Both are inductions over the pumps. -/

namespace Sys2Proof.Machine

/-! ## Pumps in a row -/

theorem pumps_succ (n : Nat) (s : State) : pumps (n + 1) s =
    match exec .txPump s with
    | .next t => pumps n t
    | .fault _ => none
    | .refused _ => none := rfl

theorem pumps_succ_of_next {n : Nat} {s t : State} (h : exec .txPump s = .next t) : pumps (n + 1) s = pumps n t := by
  rw [pumps_succ, h]

/-- One more pump, at the end. -/
theorem pumps_snoc {n : Nat} {s u t : State} (h : pumps n s = some u) (ht : exec .txPump u = .next t) :
    pumps (n + 1) s = some t := by
  induction n generalizing s with
  | zero => cases h; rw [pumps_succ_of_next ht, pumps]
  | succ n ih =>
    rw [pumps_succ] at h ⊢
    split at h
    next v hv => exact ih h
    next => cases h
    next => cases h

/-! ## The pumps of a session with a ready sink (R175) -/

/-- The session of `len` bytes has had `sent` of them sent, the last pump ending with ST_IN_PROGRESS, and the sink stays ready. -/
structure DataSent (len sent : Nat) (later : List Bool) (u : State) : Prop where
  inv : Inv u
  clear : u.status.fault = false
  going : u.status.cancelling = false
  at_data : u.status.mstate = .data
  code : u.status.code = .inProgress
  sesLen : u.sesLen.toNat = len
  cursor : u.cursor.toNat = sent
  ready : readyFor (len - sent + 3) later u

/-- Fewer polls of a row of ready ones. -/
theorem readyFor_split {k n : Nat} {later : List Bool} {s : State} (hk : k ≤ n) (h : readyFor n later s) :
    readyFor k (List.replicate (n - k) true ++ later) s := by
  rw [readyFor, ← List.append_assoc, List.replicate_append_replicate, Nat.add_sub_cancel' hk]
  exact h

theorem closingPolls_le (gens : List (Word → List Byte × Word)) (s : State) : closingPolls gens s ≤ gens.length + 2 := by
  rw [closingPolls, makeUnits_length]
  split <;> omega

theorem Inv.first_pump {s : State} (h : Inv s) (hclear : s.status.fault = false) (hm : s.status.mstate = .leader)
    (hgoing : s.status.cancelling = false) {later : List Bool} (hready : readyFor (s.sesLen.toNat + 6) later s) :
    ∃ u, exec .txPump s = .next u ∧ DataSent s.sesLen.toNat (min 128 s.sesLen.toNat) later u := by
  obtain ⟨u, hu, -, hstatus, -, hlen, hcursor, hans, -⟩ :=
    firstPumpSendsPreambleAndData s _ h hclear hm (readyFor_split (by omega) hready)
  refine ⟨u, hu, {
    inv := h.after_exec hu, clear := by rw [hstatus, ← hclear], going := by rw [hstatus, ← hgoing]
    at_data := by rw [hstatus], code := by rw [hstatus], sesLen := by rw [hlen], cursor := hcursor
    ready := hans.trans (by congr 2; omega) }⟩

theorem DataSent.next_pump {len sent : Nat} {later : List Bool} {u : State} (h : DataSent len sent later u) (hlt : sent < len) :
    ∃ v, exec .txPump u = .next v ∧ DataSent len (sent + min 128 (len - sent)) later v := by
  have hne : u.cursor ≠ u.sesLen := fun hc => by
    have hc' := congrArg BitVec.toNat hc
    rw [h.cursor, h.sesLen] at hc'
    omega
  obtain ⟨v, hv, -, hstatus, -, hlen, hcursor, hans, -⟩ :=
    middlePumpSendsData u _ h.inv h.clear h.at_data hne (readyFor_split (by rw [h.sesLen, h.cursor]; omega) h.ready)
  rw [h.sesLen, h.cursor] at hcursor hans
  refine ⟨v, hv, {
    inv := h.inv.after_exec hv, clear := by rw [hstatus, ← h.clear], going := by rw [hstatus, ← h.going]
    at_data := by rw [hstatus, ← h.at_data], code := by rw [hstatus], sesLen := by rw [hlen, h.sesLen], cursor := hcursor
    ready := hans.trans (by congr 2; omega) }⟩

theorem DataSent.last_pump {len : Nat} {later : List Bool} {u : State} (h : DataSent len len later u) :
    ∃ t, exec .txPump u = .next t ∧ t.status.code = .complete ∧ t.status.transmitting = false := by
  have hcursor : u.cursor = u.sesLen := BitVec.eq_of_toNat_eq (by rw [h.cursor, h.sesLen])
  have hcount : closingPolls (closingUnits u.params u.status.cancelling u.status.mstate) u ≤ len - len + 3 := by
    rw [h.at_data, h.going, Nat.sub_self]
    exact closingPolls_le (closingUnits u.params false .data) u
  obtain ⟨t, ht, -, hstatus, -⟩ :=
    lastPumpCompletesTheSession u _ h.inv h.clear (.inr ⟨h.at_data, hcursor⟩) (readyFor_split hcount h.ready)
  exact ⟨t, ht, by rw [hstatus, h.going]; rfl, by rw [hstatus]⟩

/-- After `j + 1` pumps, not more than the data takes. -/
theorem Inv.data_pumps {s : State} (h : Inv s) (hclear : s.status.fault = false) (hm : s.status.mstate = .leader)
    (hgoing : s.status.cancelling = false) {later : List Bool} (hready : readyFor (s.sesLen.toNat + 6) later s) {j : Nat}
    (hj : j + 1 ≤ (s.sesLen.toNat + 127) / 128) :
    ∃ u, pumps (j + 1) s = some u ∧ DataSent s.sesLen.toNat (min (128 * (j + 1)) s.sesLen.toNat) later u := by
  induction j with
  | zero =>
    obtain ⟨u, hu, hsent⟩ := h.first_pump hclear hm hgoing hready
    exact ⟨u, pumps_succ_of_next hu, hsent⟩
  | succ j ih =>
    obtain ⟨u, hpumps, hsent⟩ := ih (by omega)
    obtain ⟨v, hv, hsent'⟩ := hsent.next_pump (by omega)
    refine ⟨v, pumps_snoc hpumps hv, ?_⟩
    have hcursor : min (128 * (j + 1 + 1)) s.sesLen.toNat = min (128 * (j + 1)) s.sesLen.toNat +
        min 128 (s.sesLen.toNat - min (128 * (j + 1)) s.sesLen.toNat) := by omega
    rwa [hcursor]

/-- Settles O54: the first pump, the middle pumps up to the last byte, and the closing pump. -/
theorem sessionTakesExactlyItsPumps : Obligations.SessionTakesExactlyItsPumps := by
  intro s later h hclear hm hgoing hready
  obtain ⟨-, hlen⟩ := h.session (h.transmitting_of_ne_idle (by simp [hm]))
  have hdata {j : Nat} (h1 : 1 ≤ j) (hj : j ≤ (s.sesLen.toNat + 127) / 128) :
      ∃ u, pumps j s = some u ∧ DataSent s.sesLen.toNat (min (128 * j) s.sesLen.toNat) later u := by
    obtain ⟨k, rfl⟩ : ∃ k, j = k + 1 := ⟨j - 1, by omega⟩
    exact h.data_pumps hclear hm hgoing hready hj
  constructor
  · intro j h1 hj
    obtain ⟨u, hpumps, hsent⟩ := hdata h1 hj
    exact ⟨u, hpumps, hsent.code, hsent.at_data, hsent.cursor⟩
  · obtain ⟨u, hpumps, hsent⟩ := hdata (j := (s.sesLen.toNat + 127) / 128) (by omega) (Nat.le_refl _)
    have hall : min (128 * ((s.sesLen.toNat + 127) / 128)) s.sesLen.toNat = s.sesLen.toNat := by omega
    rw [hall] at hsent
    obtain ⟨t, ht, hcode, htransmitting⟩ := hsent.last_pump
    exact ⟨t, pumps_snoc hpumps ht, hcode, htransmitting⟩

/-! ## What a session has still to send -/

/-- The units that follow a place of the sequencer in a session not cancelled, `bytes` being the data still to send (R171). -/
def unitsFrom (p : Params) (cfg : Word) (bytes : List Byte) : MState → List (Word → List Byte × Word)
  | .leader => leaderTone p :: syncFrame p cfg :: syncFrame p cfg :: (dataUnits p cfg bytes ++ [trailerTone p])
  | .sync0 => syncFrame p cfg :: syncFrame p cfg :: (dataUnits p cfg bytes ++ [trailerTone p])
  | .sync1 => syncFrame p cfg :: (dataUnits p cfg bytes ++ [trailerTone p])
  | .data => dataUnits p cfg bytes ++ [trailerTone p]
  | .trailer => [trailerTone p]
  | .flushTone | .drain | .finish | .idle => []

/-- The units the session has still to send. -/
def unitsLeft (s : State) : List (Word → List Byte × Word) :=
  unitsFrom s.params s.cfg ((sessionBytes s).drop s.cursor.toNat) s.status.mstate

theorem unitsLeft_of_pumpFrame {s t : State} (h : pumpFrame s t) (hlen : t.sesLen = s.sesLen) :
    unitsLeft t = unitsFrom s.params s.cfg ((sessionBytes s).drop t.cursor.toNat) t.status.mstate := by
  have hcfg : t.cfg = s.cfg := by rw [h]
  rw [unitsLeft, pumpFrame_params h, hcfg, sessionBytes_of_pumpFrame h hlen]

theorem unitsLeft_congr {s t : State} (h : pumpFrame s t) (hlen : t.sesLen = s.sesLen) (hcursor : t.cursor = s.cursor)
    (hm : t.status.mstate = s.status.mstate) : unitsLeft t = unitsLeft s := by
  rw [unitsLeft_of_pumpFrame h hlen, hcursor, hm, unitsLeft]

/-- Sending a unit takes it off what is left. -/
theorem Inv.unitsLeft_sendUnit {s : State} (h : Inv s) (hgoing : s.status.cancelling = false) {u : SessionUnit}
    (hu : unitAt s = some u) : unitsLeft s = u.gen :: unitsLeft (sendUnit u (sinkPoll s).2) := by
  have hnext : (sendUnit u (sinkPoll s).2).status.mstate = u.next := by rw [sendUnit_frame]
  rw [unitsLeft_of_pumpFrame (pumpFrame_trans (pumpFrame_sinkPoll s) (pumpFrame_sendUnit u _))
    (by rw [sendUnit_frame, sinkPoll_sesLen]), h.cursor_sendUnit hu, hnext, unitsLeft]
  obtain ⟨hm, rfl⟩ | ⟨hm, rfl⟩ | ⟨hm, rfl⟩ | ⟨hm, hc, rfl⟩ | ⟨hm, rfl⟩ | ⟨hm, rfl⟩ := unitAt_cases hu
  case inr.inr.inr.inl =>
    have hlt : s.cursor.toNat < s.sesLen.toNat := by
      have hle := h.cursor_le
      have hne : s.cursor.toNat ≠ s.sesLen.toNat := fun he => hc (BitVec.eq_of_toNat_eq he)
      omega
    rw [hm, drop_sessionBytes hlt]
    rfl
  case inr.inr.inr.inr.inl => rw [hm, hgoing]; rfl
  case inr.inr.inr.inr.inr => simp [h.flushTone hm] at hgoing
  all_goals rw [hm]; rfl

theorem unitsLeft_of_dataSent {s : State} (hm : s.status.mstate = .data) (hc : s.cursor = s.sesLen) :
    unitsLeft s = unitsLeft (setMState .trailer s) := by
  have hnone : (sessionBytes s).drop s.cursor.toNat = [] :=
    List.drop_eq_nil_of_le (by rw [sessionBytes_length, hc])
  rw [unitsLeft_of_pumpFrame (s := s) (t := setMState .trailer s) rfl rfl, unitsLeft, hm, hnone]
  rfl

/-! ## The stream of a session (R185) -/

/-- The hand-offs of `u` are those of `s`, then the units `s` had still to send, cut at the threshold, and the final flush. -/
def StreamDone (s u : State) : Prop :=
  u.sinkLog = s.sinkLog ++ (cutHandoffs s.params.orbMin (pendingSamples s) (makeUnits (unitsLeft s) s.phase).1).1 ++
      flushBlock s.params.orbMin (cutHandoffs s.params.orbMin (pendingSamples s) (makeUnits (unitsLeft s) s.phase).1).2 ∧
    u.phase = (makeUnits (unitsLeft s) s.phase).2

theorem StreamDone.congr {s u v : State} (h : StreamDone s u) (hlog : v.sinkLog = u.sinkLog) (hphase : v.phase = u.phase) :
    StreamDone s v :=
  ⟨hlog.trans h.1, hphase.trans h.2⟩

/-- The final flush, after all units. -/
theorem Emitted.streamDone {s u v : State} (h : Emitted (unitsLeft s) s u) (hv : Flushed u v) : StreamDone s v := by
  have hlog := hv.sinkLog
  rw [pumpFrame_params h.frame, h.pending, h.sinkLog] at hlog
  exact ⟨hlog, hv.phase.trans h.phase⟩

/-- A session that goes on, not cancelled: from `s` to `u` a first part of the units has been sent and the rest is still to send;
in M_FINISH all is sent and flushed. -/
structure OnTheWay (s u : State) : Prop where
  inv : Inv u
  clear : u.status.fault = false
  going : u.status.cancelling = false
  session : u.status.mstate ≠ .idle
  sent : u.status.mstate ≠ .finish → ∃ gens, Emitted gens s u ∧ gens ++ unitsLeft u = unitsLeft s
  all_sent : u.status.mstate = .finish → StreamDone s u

/-- A session is on its way, or it is over with its whole stream handed off. -/
def OnTheWayOrOver (s t : State) : Prop :=
  OnTheWay s t ∨ t.status.transmitting = false ∧ StreamDone s t

theorem OnTheWay.refl {s : State} (h : Inv s) (hclear : s.status.fault = false) (hgoing : s.status.cancelling = false)
    (hm : s.status.mstate = .leader) : OnTheWay s s where
  inv := h
  clear := hclear
  going := hgoing
  session := by simp [hm]
  sent := fun _ => ⟨[], .refl s, rfl⟩
  all_sent := fun hf => by simp [hm] at hf

/-- A call that ends without closing the session leaves what was sent and what is left as they were. -/
theorem OnTheWay.kept {s u v : State} (h : OnTheWay s u) (hinv : Inv v) (hframe : pumpFrame u v) (hlog : v.sinkLog = u.sinkLog)
    (horb : v.orb = u.orb) (hsize : v.orbSize = u.orbSize) (hphase : v.phase = u.phase) (hlen : v.sesLen = u.sesLen)
    (hcursor : v.cursor = u.cursor) (hfault : v.status.fault = u.status.fault)
    (hcancelling : v.status.cancelling = u.status.cancelling) (hm : v.status.mstate = u.status.mstate) : OnTheWay s v where
  inv := hinv
  clear := hfault.trans h.clear
  going := hcancelling.trans h.going
  session := hm ▸ h.session
  sent := fun hf => by
    obtain ⟨gens, hgens, hleft⟩ := h.sent (hm ▸ hf)
    refine ⟨gens, ?_, by rw [unitsLeft_congr hframe hlen hcursor hm, hleft]⟩
    exact (List.append_nil gens) ▸ hgens.append (.of_untouched hframe hlog horb hsize hphase)
  all_sent := fun hf => (h.all_sent (hm ▸ hf)).congr hlog hphase

/-- From M_DRAIN the final flush leads to M_FINISH with the whole stream handed off. -/
theorem OnTheWay.flushed {s u v : State} (h : OnTheWay s u) (hm : u.status.mstate = .drain) (hinv : Inv v) (hv : Flushed u v) :
    OnTheWay s v where
  inv := hinv
  clear := by rw [hv.status]; exact h.clear
  going := by rw [hv.status]; exact h.going
  session := by simp [hv.status]
  sent := fun hf => absurd (by rw [hv.status]) hf
  all_sent := fun _ => by
    obtain ⟨gens, hgens, hleft⟩ := h.sent (by simp [hm])
    have hnone : unitsLeft u = [] := by rw [unitsLeft, hm]; rfl
    rw [hnone, List.append_nil] at hleft
    exact (hleft ▸ hgens).streamDone hv

theorem OnTheWay.pass_again {s u u' : State} {n n' : Nat} (h : OnTheWay s u) (hp : PassOutcome n u (.again n' u')) :
    OnTheWay s u' := by
  have hinv := h.inv.pass_again hp
  cases hp with
  | @sent unit hunit ready room below_bound =>
    have hnext : unit.next ≠ .finish ∧ unit.next ≠ .idle := by
      obtain ⟨-, rfl⟩ | ⟨-, rfl⟩ | ⟨-, rfl⟩ | ⟨-, -, rfl⟩ | ⟨-, rfl⟩ | ⟨-, rfl⟩ := unitAt_cases hunit
      case inr.inr.inr.inr.inl => rw [h.going]; exact ⟨nofun, nofun⟩
      all_goals exact ⟨nofun, nofun⟩
    have hstatus : (sendUnit unit (sinkPoll u).2).status = { u.status with mstate := unit.next } := by
      rw [sendUnit_frame, sinkPoll_status]
    refine {
      inv := hinv, clear := by rw [hstatus]; exact h.clear, going := by rw [hstatus]; exact h.going
      session := by rw [hstatus]; exact hnext.2
      sent := fun _ => ?_
      all_sent := fun hf => absurd (by rw [← hf, hstatus]) hnext.1 }
    obtain ⟨-, hfinish, -⟩ := mstate_of_unitAt hunit
    obtain ⟨gens, hgens, hleft⟩ := h.sent hfinish
    refine ⟨gens ++ [unit.gen], hgens.append (h.inv.emitted_unit hunit), ?_⟩
    rw [← hleft, h.inv.unitsLeft_sendUnit h.going hunit, List.append_assoc]
    rfl
  | dataSent at_data no_data first =>
    refine {
      inv := hinv, clear := h.clear, going := h.going, session := by simp
      sent := fun _ => ?_, all_sent := fun hf => by simp at hf }
    obtain ⟨gens, hgens, hleft⟩ := h.sent (by simp [at_data])
    rw [unitsLeft_of_dataSent at_data no_data] at hleft
    exact ⟨gens, (List.append_nil gens) ▸ hgens.append (.of_untouched rfl rfl rfl rfl rfl), hleft⟩
  | drained at_drain empty => exact h.flushed at_drain hinv (flushed_of_empty empty)
  | flushed at_drain pending ready => exact h.flushed at_drain hinv (h.inv.flushed_of_pending pending)

theorem OnTheWay.pass_done {s u t : State} {n : Nat} (h : OnTheWay s u) (hp : PassOutcome n u (.done t)) :
    OnTheWayOrOver s t := by
  have hinv := h.inv.pass_done hp
  have hframe := hp.done_frame
  cases hp with
  | busy not_ready =>
    exact .inl (h.kept hinv hframe (by simp) (by simp) (by simp) (by simp) (by simp) (by simp) (by simp) (by simp) (by simp))
  | callEnds at_data bound => exact .inl (h.kept hinv hframe rfl rfl rfl rfl rfl rfl rfl rfl rfl)
  | unescaped at_data data_left ready sync => exact absurd sync (h.inv.sessionByte_ne_sync at_data data_left)
  | overflow unit ready no_room => exact absurd (h.inv.unit_room unit) (Nat.not_le.mpr no_room)
  | ended at_finish ready => exact .inr ⟨rfl, (h.all_sent at_finish).congr (by simp) (by simp)⟩

/-- One pump. -/
theorem OnTheWay.pump {s u v : State} (h : OnTheWay s u) (he : exec .txPump u = .next v) : OnTheWayOrOver s v := by
  rw [exec_txPump_of_clear h.clear, if_pos (h.inv.transmitting_of_ne_idle h.session)] at he
  exact runSequencer_induction (P := fun _ w => OnTheWay s w) (Q := OnTheWayOrOver s)
    (fun _ _ _ _ hw hp => hw.pass_again hp) (fun _ _ _ hw hp => hw.pass_done hp) h he

/-- A pump outside a session ends in an error, and opens none. -/
theorem pump_of_no_session {u v : State} (h : u.status.transmitting = false) (he : exec .txPump u = .next v) :
    v.status.transmitting = false ∧ v.status.code = .error := by
  cases hfault : u.status.fault with
  | true =>
    rw [exec_of_fault (by simp) hfault] at he
    cases he
    exact ⟨h, rfl⟩
  | false =>
    rw [exec_txPump_of_clear hfault, if_neg (by simp [h])] at he
    cases he
    exact ⟨h, rfl⟩

theorem pumps_succ_eq_some {n : Nat} {s t : State} (h : pumps (n + 1) s = some t) :
    ∃ u, exec .txPump s = .next u ∧ pumps n u = some t := by
  rw [pumps_succ] at h
  split at h
  next u hu => exact ⟨u, hu, h⟩
  next => cases h
  next => cases h

/-- Of pumps outside a session only none at all can leave ST_COMPLETE. -/
theorem pumps_of_no_session {n : Nat} {u t : State} (h : u.status.transmitting = false) (hp : pumps n u = some t) :
    t = u ∨ t.status.code = .error := by
  induction n generalizing u with
  | zero => cases hp; exact .inl rfl
  | succ n ih =>
    obtain ⟨v, hv, hrest⟩ := pumps_succ_eq_some hp
    obtain ⟨hidle, herror⟩ := pump_of_no_session h hv
    obtain rfl | hcode := ih hidle hrest
    · exact .inr herror
    · exact .inr hcode

theorem OnTheWay.pumps_complete {n : Nat} {s u t : State} (h : OnTheWay s u) (hp : pumps n u = some t)
    (hm : t.status.mstate = .idle) (hcode : t.status.code = .complete) : StreamDone s t := by
  induction n generalizing u with
  | zero => cases hp; exact absurd hm h.session
  | succ n ih =>
    obtain ⟨v, hv, hrest⟩ := pumps_succ_eq_some hp
    obtain hway | ⟨hidle, hdone⟩ := h.pump hv
    · exact ih hway hrest
    · obtain rfl | herror := pumps_of_no_session hidle hrest
      · exact hdone
      · rw [hcode] at herror; cases herror

/-! ## Its length -/

/-- The length of units of one length. -/
theorem makeUnits_flatten_length {gens : List (Word → List Byte × Word)} {len : Nat}
    (h : ∀ gen ∈ gens, ∀ phase, (gen phase).1.length = len) (phase : Word) :
    (makeUnits gens phase).1.flatten.length = gens.length * len := by
  induction gens generalizing phase with
  | nil => simp [makeUnits]
  | cons gen gens ih =>
    rw [makeUnits, List.flatten_cons, List.length_append, h gen List.mem_cons_self,
      ih (fun g hg => h g (List.mem_cons_of_mem _ hg)), List.length_cons, Nat.succ_mul, Nat.add_comm]

theorem frameSamples_length (p : Params) (cfg : Word) (b : Byte) (msb : Bool) (phase : Word) :
    (frameSamples p cfg b msb phase).1.length = 16 * p.nsBit := by
  rw [frameSamples, synthBits_length, frameBits_length]

/-- The samples of a session: the tones' bit times and sixteen for each frame. -/
theorem session_length (p : Params) (cfg : Word) (bytes : List Byte) (phase : Word) :
    (makeUnits (unitsFrom p cfg bytes .leader) phase).1.flatten.length =
      (p.leaderBits + 32 + 16 * bytes.length + p.trailerBits) * p.nsBit := by
  have hsplit : unitsFrom p cfg bytes .leader =
      ([leaderTone p] ++ (syncFrame p cfg :: syncFrame p cfg :: dataUnits p cfg bytes)) ++ [trailerTone p] := rfl
  have htone {n : Nat} (ph : Word) :
      (makeUnits [synth p p.ftwMark (n * p.nsBit)] ph).1.flatten.length = n * p.nsBit := by
    rw [makeUnits_flatten_length (len := n * p.nsBit), List.length_singleton, Nat.one_mul]
    intro gen hgen ph'
    rw [List.mem_singleton.mp hgen, synth_length]
  have hframes (ph : Word) : (makeUnits (syncFrame p cfg :: syncFrame p cfg :: dataUnits p cfg bytes) ph).1.flatten.length =
      (bytes.length + 2) * (16 * p.nsBit) := by
    rw [makeUnits_flatten_length (len := 16 * p.nsBit)]
    · rw [List.length_cons, List.length_cons, dataUnits_length]
    · intro gen hgen ph'
      simp only [List.mem_cons, dataUnits, List.mem_map] at hgen
      obtain rfl | rfl | ⟨b, -, rfl⟩ := hgen <;> exact frameSamples_length ..
  rw [hsplit, makeUnits_append, makeUnits_append, List.flatten_append, List.flatten_append, List.length_append,
    List.length_append, hframes]
  simp only [leaderTone, trailerTone, leaderNs, trailerNs, htone]
  ring

/-- Settles O55: the session started is on its way, so at ST_COMPLETE its stream is done. -/
theorem sessionStream : Obligations.SessionStream := by
  intro n s t h hclear hm hgoing hempty hp hidle hcode leader sync data trailer units cut
  have hcursor : s.cursor = 0 := h.preamble (.inl hm)
  have hunits : unitsLeft s = unitsFrom s.params s.cfg (sessionBytes s) .leader := by rw [unitsLeft, hm, hcursor]; rfl
  obtain ⟨hlog, hphase⟩ := (OnTheWay.refl h hclear hgoing hm).pumps_complete hp hidle hcode
  rw [hunits, (pendingSamples_eq_nil_iff s).mpr hempty] at hlog
  rw [hunits] at hphase
  have hlength := session_length s.params s.cfg (sessionBytes s) s.phase
  rw [sessionBytes_length] at hlength
  exact ⟨hlog, hphase, hlength⟩

end Sys2Proof.Machine
